-- ==== Sys2Proof/Word.lean ====
section
/-! DEFINITION. The words of the CORE (00_scope.md R9, R11): bytes, bus addresses, loopy registers, colours. -/

namespace Sys2Proof

/-- An 8-bit value: the data width of the CORE (R9). -/
abbrev Byte := BitVec 8

/-- A 16-bit address of the CPU bus, or a PPU-bus address before its reduction to 14 bits (R9, R70, R97). -/
abbrev Addr := BitVec 16

/-- A 15-bit loopy register (R9, R31, R41). -/
abbrev LoopyReg := BitVec 15

/-- A 32-bit packed colour (R9, R40). -/
abbrev Colour := BitVec 32

end Sys2Proof
end

