-- ==== Sys2Proof/Syntax.lean ====
section
/-! DEFINITION. The instructions: one constructor per row of spec/opcode_table.json (30_encoding.md R121), with the operand
bytes the row's format gives it (R120): `d` or `off` for format F2, a 16-bit `a` or `ptr` (`hi8` then `lo8`) for format F3.
The 105 rows `UND` are one instruction whose encoding is the byte itself (R139, R262); its constructor carries that byte. -/

namespace Sys2Proof

inductive Instr where
  /-- LDA immediate, 0xA9, R150. -/
  | ldaImm (d : Byte)
  /-- LDA zero page, 0xA5, R150. -/
  | ldaZp (d : Byte)
  /-- LDA zero page,X, 0xB5, R150. -/
  | ldaZpX (d : Byte)
  /-- LDA absolute, 0xAD, R150. -/
  | ldaAbs (a : Addr)
  /-- LDA absolute,X, 0xBD, R150. -/
  | ldaAbsX (a : Addr)
  /-- LDA absolute,Y, 0xB9, R150. -/
  | ldaAbsY (a : Addr)
  /-- LDA (indirect,X), 0xA1, R150. -/
  | ldaIndX (d : Byte)
  /-- LDA (indirect),Y, 0xB1, R150. -/
  | ldaIndY (d : Byte)
  /-- LDX immediate, 0xA2, R151. -/
  | ldxImm (d : Byte)
  /-- LDX zero page, 0xA6, R151. -/
  | ldxZp (d : Byte)
  /-- LDX zero page,Y, 0xB6, R151. -/
  | ldxZpY (d : Byte)
  /-- LDX absolute, 0xAE, R151. -/
  | ldxAbs (a : Addr)
  /-- LDX absolute,Y, 0xBE, R151. -/
  | ldxAbsY (a : Addr)
  /-- LDY immediate, 0xA0, R152. -/
  | ldyImm (d : Byte)
  /-- LDY zero page, 0xA4, R152. -/
  | ldyZp (d : Byte)
  /-- LDY zero page,X, 0xB4, R152. -/
  | ldyZpX (d : Byte)
  /-- LDY absolute, 0xAC, R152. -/
  | ldyAbs (a : Addr)
  /-- LDY absolute,X, 0xBC, R152. -/
  | ldyAbsX (a : Addr)
  /-- STA zero page, 0x85, R153. -/
  | staZp (d : Byte)
  /-- STA zero page,X, 0x95, R153. -/
  | staZpX (d : Byte)
  /-- STA absolute, 0x8D, R153. -/
  | staAbs (a : Addr)
  /-- STA absolute,X, 0x9D, R153. -/
  | staAbsX (a : Addr)
  /-- STA absolute,Y, 0x99, R153. -/
  | staAbsY (a : Addr)
  /-- STA (indirect,X), 0x81, R153. -/
  | staIndX (d : Byte)
  /-- STA (indirect),Y, 0x91, R153. -/
  | staIndY (d : Byte)
  /-- STX zero page, 0x86, R154. -/
  | stxZp (d : Byte)
  /-- STX zero page,Y, 0x96, R154. -/
  | stxZpY (d : Byte)
  /-- STX absolute, 0x8E, R154. -/
  | stxAbs (a : Addr)
  /-- STY zero page, 0x84, R155. -/
  | styZp (d : Byte)
  /-- STY zero page,X, 0x94, R155. -/
  | styZpX (d : Byte)
  /-- STY absolute, 0x8C, R155. -/
  | styAbs (a : Addr)
  /-- TAX implied, 0xAA, R160. -/
  | tax
  /-- TAY implied, 0xA8, R161. -/
  | tay
  /-- TXA implied, 0x8A, R162. -/
  | txa
  /-- TYA implied, 0x98, R163. -/
  | tya
  /-- TSX implied, 0xBA, R164. -/
  | tsx
  /-- TXS implied, 0x9A, R165. -/
  | txs
  /-- INC zero page, 0xE6, R170. -/
  | incZp (d : Byte)
  /-- INC zero page,X, 0xF6, R170. -/
  | incZpX (d : Byte)
  /-- INC absolute, 0xEE, R170. -/
  | incAbs (a : Addr)
  /-- INC absolute,X, 0xFE, R170. -/
  | incAbsX (a : Addr)
  /-- DEC zero page, 0xC6, R171. -/
  | decZp (d : Byte)
  /-- DEC zero page,X, 0xD6, R171. -/
  | decZpX (d : Byte)
  /-- DEC absolute, 0xCE, R171. -/
  | decAbs (a : Addr)
  /-- DEC absolute,X, 0xDE, R171. -/
  | decAbsX (a : Addr)
  /-- INX implied, 0xE8, R172. -/
  | inx
  /-- INY implied, 0xC8, R173. -/
  | iny
  /-- DEX implied, 0xCA, R174. -/
  | dex
  /-- DEY implied, 0x88, R175. -/
  | dey
  /-- ASL accumulator, 0x0A, R180. -/
  | aslAcc
  /-- ASL zero page, 0x06, R180. -/
  | aslZp (d : Byte)
  /-- ASL zero page,X, 0x16, R180. -/
  | aslZpX (d : Byte)
  /-- ASL absolute, 0x0E, R180. -/
  | aslAbs (a : Addr)
  /-- ASL absolute,X, 0x1E, R180. -/
  | aslAbsX (a : Addr)
  /-- LSR accumulator, 0x4A, R181. -/
  | lsrAcc
  /-- LSR zero page, 0x46, R181. -/
  | lsrZp (d : Byte)
  /-- LSR zero page,X, 0x56, R181. -/
  | lsrZpX (d : Byte)
  /-- LSR absolute, 0x4E, R181. -/
  | lsrAbs (a : Addr)
  /-- LSR absolute,X, 0x5E, R181. -/
  | lsrAbsX (a : Addr)
  /-- ROL accumulator, 0x2A, R182. -/
  | rolAcc
  /-- ROL zero page, 0x26, R182. -/
  | rolZp (d : Byte)
  /-- ROL zero page,X, 0x36, R182. -/
  | rolZpX (d : Byte)
  /-- ROL absolute, 0x2E, R182. -/
  | rolAbs (a : Addr)
  /-- ROL absolute,X, 0x3E, R182. -/
  | rolAbsX (a : Addr)
  /-- ROR accumulator, 0x6A, R183. -/
  | rorAcc
  /-- ROR zero page, 0x66, R183. -/
  | rorZp (d : Byte)
  /-- ROR zero page,X, 0x76, R183. -/
  | rorZpX (d : Byte)
  /-- ROR absolute, 0x6E, R183. -/
  | rorAbs (a : Addr)
  /-- ROR absolute,X, 0x7E, R183. -/
  | rorAbsX (a : Addr)
  /-- AND immediate, 0x29, R190. -/
  | andImm (d : Byte)
  /-- AND zero page, 0x25, R190. -/
  | andZp (d : Byte)
  /-- AND zero page,X, 0x35, R190. -/
  | andZpX (d : Byte)
  /-- AND absolute, 0x2D, R190. -/
  | andAbs (a : Addr)
  /-- AND absolute,X, 0x3D, R190. -/
  | andAbsX (a : Addr)
  /-- AND absolute,Y, 0x39, R190. -/
  | andAbsY (a : Addr)
  /-- AND (indirect,X), 0x21, R190. -/
  | andIndX (d : Byte)
  /-- AND (indirect),Y, 0x31, R190. -/
  | andIndY (d : Byte)
  /-- ORA immediate, 0x09, R191. -/
  | oraImm (d : Byte)
  /-- ORA zero page, 0x05, R191. -/
  | oraZp (d : Byte)
  /-- ORA zero page,X, 0x15, R191. -/
  | oraZpX (d : Byte)
  /-- ORA absolute, 0x0D, R191. -/
  | oraAbs (a : Addr)
  /-- ORA absolute,X, 0x1D, R191. -/
  | oraAbsX (a : Addr)
  /-- ORA absolute,Y, 0x19, R191. -/
  | oraAbsY (a : Addr)
  /-- ORA (indirect,X), 0x01, R191. -/
  | oraIndX (d : Byte)
  /-- ORA (indirect),Y, 0x11, R191. -/
  | oraIndY (d : Byte)
  /-- EOR immediate, 0x49, R192. -/
  | eorImm (d : Byte)
  /-- EOR zero page, 0x45, R192. -/
  | eorZp (d : Byte)
  /-- EOR zero page,X, 0x55, R192. -/
  | eorZpX (d : Byte)
  /-- EOR absolute, 0x4D, R192. -/
  | eorAbs (a : Addr)
  /-- EOR absolute,X, 0x5D, R192. -/
  | eorAbsX (a : Addr)
  /-- EOR absolute,Y, 0x59, R192. -/
  | eorAbsY (a : Addr)
  /-- EOR (indirect,X), 0x41, R192. -/
  | eorIndX (d : Byte)
  /-- EOR (indirect),Y, 0x51, R192. -/
  | eorIndY (d : Byte)
  /-- BIT zero page, 0x24, R193. -/
  | bitZp (d : Byte)
  /-- BIT absolute, 0x2C, R193. -/
  | bitAbs (a : Addr)
  /-- CMP immediate, 0xC9, R200. -/
  | cmpImm (d : Byte)
  /-- CMP zero page, 0xC5, R200. -/
  | cmpZp (d : Byte)
  /-- CMP zero page,X, 0xD5, R200. -/
  | cmpZpX (d : Byte)
  /-- CMP absolute, 0xCD, R200. -/
  | cmpAbs (a : Addr)
  /-- CMP absolute,X, 0xDD, R200. -/
  | cmpAbsX (a : Addr)
  /-- CMP absolute,Y, 0xD9, R200. -/
  | cmpAbsY (a : Addr)
  /-- CMP (indirect,X), 0xC1, R200. -/
  | cmpIndX (d : Byte)
  /-- CMP (indirect),Y, 0xD1, R200. -/
  | cmpIndY (d : Byte)
  /-- CPX immediate, 0xE0, R201. -/
  | cpxImm (d : Byte)
  /-- CPX zero page, 0xE4, R201. -/
  | cpxZp (d : Byte)
  /-- CPX absolute, 0xEC, R201. -/
  | cpxAbs (a : Addr)
  /-- CPY immediate, 0xC0, R202. -/
  | cpyImm (d : Byte)
  /-- CPY zero page, 0xC4, R202. -/
  | cpyZp (d : Byte)
  /-- CPY absolute, 0xCC, R202. -/
  | cpyAbs (a : Addr)
  /-- ADC immediate, 0x69, R210. -/
  | adcImm (d : Byte)
  /-- ADC zero page, 0x65, R210. -/
  | adcZp (d : Byte)
  /-- ADC zero page,X, 0x75, R210. -/
  | adcZpX (d : Byte)
  /-- ADC absolute, 0x6D, R210. -/
  | adcAbs (a : Addr)
  /-- ADC absolute,X, 0x7D, R210. -/
  | adcAbsX (a : Addr)
  /-- ADC absolute,Y, 0x79, R210. -/
  | adcAbsY (a : Addr)
  /-- ADC (indirect,X), 0x61, R210. -/
  | adcIndX (d : Byte)
  /-- ADC (indirect),Y, 0x71, R210. -/
  | adcIndY (d : Byte)
  /-- SBC immediate, 0xE9, R211. -/
  | sbcImm (d : Byte)
  /-- SBC zero page, 0xE5, R211. -/
  | sbcZp (d : Byte)
  /-- SBC zero page,X, 0xF5, R211. -/
  | sbcZpX (d : Byte)
  /-- SBC absolute, 0xED, R211. -/
  | sbcAbs (a : Addr)
  /-- SBC absolute,X, 0xFD, R211. -/
  | sbcAbsX (a : Addr)
  /-- SBC absolute,Y, 0xF9, R211. -/
  | sbcAbsY (a : Addr)
  /-- SBC (indirect,X), 0xE1, R211. -/
  | sbcIndX (d : Byte)
  /-- SBC (indirect),Y, 0xF1, R211. -/
  | sbcIndY (d : Byte)
  /-- BCC relative, 0x90, R222. -/
  | bcc (off : Byte)
  /-- BCS relative, 0xB0, R223. -/
  | bcs (off : Byte)
  /-- BEQ relative, 0xF0, R224. -/
  | beq (off : Byte)
  /-- BNE relative, 0xD0, R225. -/
  | bne (off : Byte)
  /-- BMI relative, 0x30, R226. -/
  | bmi (off : Byte)
  /-- BPL relative, 0x10, R227. -/
  | bpl (off : Byte)
  /-- BVC relative, 0x50, R228. -/
  | bvc (off : Byte)
  /-- BVS relative, 0x70, R229. -/
  | bvs (off : Byte)
  /-- PHA implied, 0x48, R237. -/
  | pha
  /-- PHP implied, 0x08, R238. -/
  | php
  /-- PLA implied, 0x68, R239. -/
  | pla
  /-- PLP implied, 0x28, R240. -/
  | plp
  /-- JMP absolute, 0x4C, R245. -/
  | jmpAbs (a : Addr)
  /-- JMP indirect, 0x6C, R246. -/
  | jmpInd (ptr : Addr)
  /-- JSR absolute, 0x20, R247. -/
  | jsr (a : Addr)
  /-- RTS implied, 0x60, R248. -/
  | rts
  /-- RTI implied, 0x40, R249. -/
  | rti
  /-- BRK implied, 0x00, R250. -/
  | brk
  /-- CLC implied, 0x18, R251. -/
  | clc
  /-- SEC implied, 0x38, R252. -/
  | sec
  /-- CLI implied, 0x58, R253. -/
  | cli
  /-- SEI implied, 0x78, R254. -/
  | sei
  /-- CLD implied, 0xD8, R255. -/
  | cld
  /-- SED implied, 0xF8, R256. -/
  | sed
  /-- CLV implied, 0xB8, R257. -/
  | clv
  /-- NOP implied, 0xEA, R258. -/
  | nop
  /-- An undefined opcode byte, R139, R262. -/
  | und (op : Byte)
deriving DecidableEq, Repr

end Sys2Proof
end

