-- ==== Sys2Proof/Decode.lean ====
section
/-! DEFINITION. The decoder (30_encoding.md R120 to R122, R139) and, after it, the encoder written from the same table; the
byte-order helpers of R71; and the numbering of spec/opcode_table.json's bits. -/

namespace Sys2Proof

/-- The low byte of a 16-bit quantity (R71). -/
def loByte (a : Addr) : Byte := a.extractLsb' 0 8

/-- The high byte of a 16-bit quantity (R71). -/
def hiByte (a : Addr) : Byte := a.extractLsb' 8 8

/-- `(hi << 8) | lo`: a 16-bit quantity from its two bytes (R71, R131). -/
def addrOf (lo hi : Byte) : Addr := hi ++ lo

/-- The three instruction formats of R120: the instruction, or what completes it from its operand byte or word. -/
inductive Format where
  | f1 (i : Instr)
  | f2 (mk : Byte → Instr)
  | f3 (mk : Addr → Instr)

/-- The number of operand bytes a format has after the opcode byte (R120). -/
def Format.operandBytes : Format → Nat
  | .f1 _ => 0
  | .f2 _ => 1
  | .f3 _ => 2

/-- The opcode map (R121): the instruction format each opcode byte selects.  Every byte not in the table of R121 is an
undefined opcode (R139), so the map is total (R122). -/
def opcodeFormat (op : Byte) : Format :=
  match op.toNat with
  | 0x00 => .f1 .brk
  | 0x01 => .f2 .oraIndX
  | 0x05 => .f2 .oraZp
  | 0x06 => .f2 .aslZp
  | 0x08 => .f1 .php
  | 0x09 => .f2 .oraImm
  | 0x0A => .f1 .aslAcc
  | 0x0D => .f3 .oraAbs
  | 0x0E => .f3 .aslAbs
  | 0x10 => .f2 .bpl
  | 0x11 => .f2 .oraIndY
  | 0x15 => .f2 .oraZpX
  | 0x16 => .f2 .aslZpX
  | 0x18 => .f1 .clc
  | 0x19 => .f3 .oraAbsY
  | 0x1D => .f3 .oraAbsX
  | 0x1E => .f3 .aslAbsX
  | 0x20 => .f3 .jsr
  | 0x21 => .f2 .andIndX
  | 0x24 => .f2 .bitZp
  | 0x25 => .f2 .andZp
  | 0x26 => .f2 .rolZp
  | 0x28 => .f1 .plp
  | 0x29 => .f2 .andImm
  | 0x2A => .f1 .rolAcc
  | 0x2C => .f3 .bitAbs
  | 0x2D => .f3 .andAbs
  | 0x2E => .f3 .rolAbs
  | 0x30 => .f2 .bmi
  | 0x31 => .f2 .andIndY
  | 0x35 => .f2 .andZpX
  | 0x36 => .f2 .rolZpX
  | 0x38 => .f1 .sec
  | 0x39 => .f3 .andAbsY
  | 0x3D => .f3 .andAbsX
  | 0x3E => .f3 .rolAbsX
  | 0x40 => .f1 .rti
  | 0x41 => .f2 .eorIndX
  | 0x45 => .f2 .eorZp
  | 0x46 => .f2 .lsrZp
  | 0x48 => .f1 .pha
  | 0x49 => .f2 .eorImm
  | 0x4A => .f1 .lsrAcc
  | 0x4C => .f3 .jmpAbs
  | 0x4D => .f3 .eorAbs
  | 0x4E => .f3 .lsrAbs
  | 0x50 => .f2 .bvc
  | 0x51 => .f2 .eorIndY
  | 0x55 => .f2 .eorZpX
  | 0x56 => .f2 .lsrZpX
  | 0x58 => .f1 .cli
  | 0x59 => .f3 .eorAbsY
  | 0x5D => .f3 .eorAbsX
  | 0x5E => .f3 .lsrAbsX
  | 0x60 => .f1 .rts
  | 0x61 => .f2 .adcIndX
  | 0x65 => .f2 .adcZp
  | 0x66 => .f2 .rorZp
  | 0x68 => .f1 .pla
  | 0x69 => .f2 .adcImm
  | 0x6A => .f1 .rorAcc
  | 0x6C => .f3 .jmpInd
  | 0x6D => .f3 .adcAbs
  | 0x6E => .f3 .rorAbs
  | 0x70 => .f2 .bvs
  | 0x71 => .f2 .adcIndY
  | 0x75 => .f2 .adcZpX
  | 0x76 => .f2 .rorZpX
  | 0x78 => .f1 .sei
  | 0x79 => .f3 .adcAbsY
  | 0x7D => .f3 .adcAbsX
  | 0x7E => .f3 .rorAbsX
  | 0x81 => .f2 .staIndX
  | 0x84 => .f2 .styZp
  | 0x85 => .f2 .staZp
  | 0x86 => .f2 .stxZp
  | 0x88 => .f1 .dey
  | 0x8A => .f1 .txa
  | 0x8C => .f3 .styAbs
  | 0x8D => .f3 .staAbs
  | 0x8E => .f3 .stxAbs
  | 0x90 => .f2 .bcc
  | 0x91 => .f2 .staIndY
  | 0x94 => .f2 .styZpX
  | 0x95 => .f2 .staZpX
  | 0x96 => .f2 .stxZpY
  | 0x98 => .f1 .tya
  | 0x99 => .f3 .staAbsY
  | 0x9A => .f1 .txs
  | 0x9D => .f3 .staAbsX
  | 0xA0 => .f2 .ldyImm
  | 0xA1 => .f2 .ldaIndX
  | 0xA2 => .f2 .ldxImm
  | 0xA4 => .f2 .ldyZp
  | 0xA5 => .f2 .ldaZp
  | 0xA6 => .f2 .ldxZp
  | 0xA8 => .f1 .tay
  | 0xA9 => .f2 .ldaImm
  | 0xAA => .f1 .tax
  | 0xAC => .f3 .ldyAbs
  | 0xAD => .f3 .ldaAbs
  | 0xAE => .f3 .ldxAbs
  | 0xB0 => .f2 .bcs
  | 0xB1 => .f2 .ldaIndY
  | 0xB4 => .f2 .ldyZpX
  | 0xB5 => .f2 .ldaZpX
  | 0xB6 => .f2 .ldxZpY
  | 0xB8 => .f1 .clv
  | 0xB9 => .f3 .ldaAbsY
  | 0xBA => .f1 .tsx
  | 0xBC => .f3 .ldyAbsX
  | 0xBD => .f3 .ldaAbsX
  | 0xBE => .f3 .ldxAbsY
  | 0xC0 => .f2 .cpyImm
  | 0xC1 => .f2 .cmpIndX
  | 0xC4 => .f2 .cpyZp
  | 0xC5 => .f2 .cmpZp
  | 0xC6 => .f2 .decZp
  | 0xC8 => .f1 .iny
  | 0xC9 => .f2 .cmpImm
  | 0xCA => .f1 .dex
  | 0xCC => .f3 .cpyAbs
  | 0xCD => .f3 .cmpAbs
  | 0xCE => .f3 .decAbs
  | 0xD0 => .f2 .bne
  | 0xD1 => .f2 .cmpIndY
  | 0xD5 => .f2 .cmpZpX
  | 0xD6 => .f2 .decZpX
  | 0xD8 => .f1 .cld
  | 0xD9 => .f3 .cmpAbsY
  | 0xDD => .f3 .cmpAbsX
  | 0xDE => .f3 .decAbsX
  | 0xE0 => .f2 .cpxImm
  | 0xE1 => .f2 .sbcIndX
  | 0xE4 => .f2 .cpxZp
  | 0xE5 => .f2 .sbcZp
  | 0xE6 => .f2 .incZp
  | 0xE8 => .f1 .inx
  | 0xE9 => .f2 .sbcImm
  | 0xEA => .f1 .nop
  | 0xEC => .f3 .cpxAbs
  | 0xED => .f3 .sbcAbs
  | 0xEE => .f3 .incAbs
  | 0xF0 => .f2 .beq
  | 0xF1 => .f2 .sbcIndY
  | 0xF5 => .f2 .sbcZpX
  | 0xF6 => .f2 .incZpX
  | 0xF8 => .f1 .sed
  | 0xF9 => .f3 .sbcAbsY
  | 0xFD => .f3 .sbcAbsX
  | 0xFE => .f3 .incAbsX
  | _ => .f1 (.und op)

/-- Why bytes do not decode: the opcode byte, or an operand byte it calls for, is not there. -/
inductive DecodeError where
  | noOpcode
  | missingOperand (opcode : Byte)
deriving DecidableEq, Repr

/-- What decoding answers: an instruction with the bytes after it, or a rejection by name. -/
inductive DecodeResult where
  | ok (i : Instr) (rest : List Byte)
  | rejected (e : DecodeError)
deriving DecidableEq, Repr

/-- Decoding (R120, R122): a table lookup on the whole opcode byte, then `d8`, or `lo8` and `hi8`, in ascending order. -/
def decode : List Byte → DecodeResult
  | [] => .rejected .noOpcode
  | op :: rest =>
    match opcodeFormat op, rest with
    | .f1 i, rest => .ok i rest
    | .f2 mk, d :: rest => .ok (mk d) rest
    | .f3 mk, lo :: hi :: rest => .ok (mk (addrOf lo hi)) rest
    | _, _ => .rejected (.missingOperand op)

/-- The bytes of an instruction in ascending address order (R120, R121). -/
def encode : Instr → List Byte
  | .ldaImm d => [0xA9#8, d]
  | .ldaZp d => [0xA5#8, d]
  | .ldaZpX d => [0xB5#8, d]
  | .ldaAbs a => [0xAD#8, loByte a, hiByte a]
  | .ldaAbsX a => [0xBD#8, loByte a, hiByte a]
  | .ldaAbsY a => [0xB9#8, loByte a, hiByte a]
  | .ldaIndX d => [0xA1#8, d]
  | .ldaIndY d => [0xB1#8, d]
  | .ldxImm d => [0xA2#8, d]
  | .ldxZp d => [0xA6#8, d]
  | .ldxZpY d => [0xB6#8, d]
  | .ldxAbs a => [0xAE#8, loByte a, hiByte a]
  | .ldxAbsY a => [0xBE#8, loByte a, hiByte a]
  | .ldyImm d => [0xA0#8, d]
  | .ldyZp d => [0xA4#8, d]
  | .ldyZpX d => [0xB4#8, d]
  | .ldyAbs a => [0xAC#8, loByte a, hiByte a]
  | .ldyAbsX a => [0xBC#8, loByte a, hiByte a]
  | .staZp d => [0x85#8, d]
  | .staZpX d => [0x95#8, d]
  | .staAbs a => [0x8D#8, loByte a, hiByte a]
  | .staAbsX a => [0x9D#8, loByte a, hiByte a]
  | .staAbsY a => [0x99#8, loByte a, hiByte a]
  | .staIndX d => [0x81#8, d]
  | .staIndY d => [0x91#8, d]
  | .stxZp d => [0x86#8, d]
  | .stxZpY d => [0x96#8, d]
  | .stxAbs a => [0x8E#8, loByte a, hiByte a]
  | .styZp d => [0x84#8, d]
  | .styZpX d => [0x94#8, d]
  | .styAbs a => [0x8C#8, loByte a, hiByte a]
  | .tax => [0xAA#8]
  | .tay => [0xA8#8]
  | .txa => [0x8A#8]
  | .tya => [0x98#8]
  | .tsx => [0xBA#8]
  | .txs => [0x9A#8]
  | .incZp d => [0xE6#8, d]
  | .incZpX d => [0xF6#8, d]
  | .incAbs a => [0xEE#8, loByte a, hiByte a]
  | .incAbsX a => [0xFE#8, loByte a, hiByte a]
  | .decZp d => [0xC6#8, d]
  | .decZpX d => [0xD6#8, d]
  | .decAbs a => [0xCE#8, loByte a, hiByte a]
  | .decAbsX a => [0xDE#8, loByte a, hiByte a]
  | .inx => [0xE8#8]
  | .iny => [0xC8#8]
  | .dex => [0xCA#8]
  | .dey => [0x88#8]
  | .aslAcc => [0x0A#8]
  | .aslZp d => [0x06#8, d]
  | .aslZpX d => [0x16#8, d]
  | .aslAbs a => [0x0E#8, loByte a, hiByte a]
  | .aslAbsX a => [0x1E#8, loByte a, hiByte a]
  | .lsrAcc => [0x4A#8]
  | .lsrZp d => [0x46#8, d]
  | .lsrZpX d => [0x56#8, d]
  | .lsrAbs a => [0x4E#8, loByte a, hiByte a]
  | .lsrAbsX a => [0x5E#8, loByte a, hiByte a]
  | .rolAcc => [0x2A#8]
  | .rolZp d => [0x26#8, d]
  | .rolZpX d => [0x36#8, d]
  | .rolAbs a => [0x2E#8, loByte a, hiByte a]
  | .rolAbsX a => [0x3E#8, loByte a, hiByte a]
  | .rorAcc => [0x6A#8]
  | .rorZp d => [0x66#8, d]
  | .rorZpX d => [0x76#8, d]
  | .rorAbs a => [0x6E#8, loByte a, hiByte a]
  | .rorAbsX a => [0x7E#8, loByte a, hiByte a]
  | .andImm d => [0x29#8, d]
  | .andZp d => [0x25#8, d]
  | .andZpX d => [0x35#8, d]
  | .andAbs a => [0x2D#8, loByte a, hiByte a]
  | .andAbsX a => [0x3D#8, loByte a, hiByte a]
  | .andAbsY a => [0x39#8, loByte a, hiByte a]
  | .andIndX d => [0x21#8, d]
  | .andIndY d => [0x31#8, d]
  | .oraImm d => [0x09#8, d]
  | .oraZp d => [0x05#8, d]
  | .oraZpX d => [0x15#8, d]
  | .oraAbs a => [0x0D#8, loByte a, hiByte a]
  | .oraAbsX a => [0x1D#8, loByte a, hiByte a]
  | .oraAbsY a => [0x19#8, loByte a, hiByte a]
  | .oraIndX d => [0x01#8, d]
  | .oraIndY d => [0x11#8, d]
  | .eorImm d => [0x49#8, d]
  | .eorZp d => [0x45#8, d]
  | .eorZpX d => [0x55#8, d]
  | .eorAbs a => [0x4D#8, loByte a, hiByte a]
  | .eorAbsX a => [0x5D#8, loByte a, hiByte a]
  | .eorAbsY a => [0x59#8, loByte a, hiByte a]
  | .eorIndX d => [0x41#8, d]
  | .eorIndY d => [0x51#8, d]
  | .bitZp d => [0x24#8, d]
  | .bitAbs a => [0x2C#8, loByte a, hiByte a]
  | .cmpImm d => [0xC9#8, d]
  | .cmpZp d => [0xC5#8, d]
  | .cmpZpX d => [0xD5#8, d]
  | .cmpAbs a => [0xCD#8, loByte a, hiByte a]
  | .cmpAbsX a => [0xDD#8, loByte a, hiByte a]
  | .cmpAbsY a => [0xD9#8, loByte a, hiByte a]
  | .cmpIndX d => [0xC1#8, d]
  | .cmpIndY d => [0xD1#8, d]
  | .cpxImm d => [0xE0#8, d]
  | .cpxZp d => [0xE4#8, d]
  | .cpxAbs a => [0xEC#8, loByte a, hiByte a]
  | .cpyImm d => [0xC0#8, d]
  | .cpyZp d => [0xC4#8, d]
  | .cpyAbs a => [0xCC#8, loByte a, hiByte a]
  | .adcImm d => [0x69#8, d]
  | .adcZp d => [0x65#8, d]
  | .adcZpX d => [0x75#8, d]
  | .adcAbs a => [0x6D#8, loByte a, hiByte a]
  | .adcAbsX a => [0x7D#8, loByte a, hiByte a]
  | .adcAbsY a => [0x79#8, loByte a, hiByte a]
  | .adcIndX d => [0x61#8, d]
  | .adcIndY d => [0x71#8, d]
  | .sbcImm d => [0xE9#8, d]
  | .sbcZp d => [0xE5#8, d]
  | .sbcZpX d => [0xF5#8, d]
  | .sbcAbs a => [0xED#8, loByte a, hiByte a]
  | .sbcAbsX a => [0xFD#8, loByte a, hiByte a]
  | .sbcAbsY a => [0xF9#8, loByte a, hiByte a]
  | .sbcIndX d => [0xE1#8, d]
  | .sbcIndY d => [0xF1#8, d]
  | .bcc off => [0x90#8, off]
  | .bcs off => [0xB0#8, off]
  | .beq off => [0xF0#8, off]
  | .bne off => [0xD0#8, off]
  | .bmi off => [0x30#8, off]
  | .bpl off => [0x10#8, off]
  | .bvc off => [0x50#8, off]
  | .bvs off => [0x70#8, off]
  | .pha => [0x48#8]
  | .php => [0x08#8]
  | .pla => [0x68#8]
  | .plp => [0x28#8]
  | .jmpAbs a => [0x4C#8, loByte a, hiByte a]
  | .jmpInd ptr => [0x6C#8, loByte ptr, hiByte ptr]
  | .jsr a => [0x20#8, loByte a, hiByte a]
  | .rts => [0x60#8]
  | .rti => [0x40#8]
  | .brk => [0x00#8]
  | .clc => [0x18#8]
  | .sec => [0x38#8]
  | .cli => [0x58#8]
  | .sei => [0x78#8]
  | .cld => [0xD8#8]
  | .sed => [0xF8#8]
  | .clv => [0xB8#8]
  | .nop => [0xEA#8]
  | .und op => [op]

/-- The three bytes, in ascending address order, of an instruction whose bits spec/opcode_table.json numbers as `w`: byte `k`
is bits `8k+7 .. 8k`, and every bit at or above `nbits` is 0. -/
def tableBytes (nbits w : Nat) : List Byte :=
  [0, 1, 2].map fun k => if 8 * k < nbits then BitVec.ofNat 8 (w >>> (8 * k)) else 0#8

/-- The instruction the decoder reads from the bits of an opcode-table row. -/
def decodeTableWord (nbits w : Nat) : Option Instr :=
  match decode (tableBytes nbits w) with
  | .ok i _ => some i
  | .rejected _ => none

end Sys2Proof
end

