-- ==== Sys2Proof/Config.lean ====
section
/-! DEFINITION. What an implementation of the CORE fixes (00_scope.md R10), and its one free value, the hardware
palette. The cartridge and the power-on memory contents, also parameters of R10, are part of the state. -/

namespace Sys2Proof

/-- `NMI_DELAY`: master ticks between arming and visibility of the NMI-pending signal, "0 or 1" (R10, R403). -/
inductive NmiDelay where
  | zero
  | one
deriving DecidableEq, Repr

/-- The parameters of R10 that carry a default value: `RESET_CYCLES` (D4), `NMI_DELAY` (D11) and
`CPU_RESET_REGS` (D3). -/
structure Params where
  resetCycles : Nat
  nmiDelay : NmiDelay
  resetA : Byte
  resetX : Byte
  resetY : Byte
  resetSp : Byte
  resetP : Byte
deriving DecidableEq, Repr

/-- The values the spec takes (R10): 7 cycles, no NMI delay, A = X = Y = 0x00, SP = 0xFD, P = 0x24. -/
def Params.default : Params where
  resetCycles := 7
  nmiDelay := .zero
  resetA := 0x00#8
  resetX := 0x00#8
  resetY := 0x00#8
  resetSp := 0xFD#8
  resetP := 0x24#8

/-- `PALETTE[0..63]`, the "fixed 64-entry hardware palette" (R10, R350, D37): OPEN in the spec, hence a constant
nothing can evaluate (log entry 6). -/
opaque Config.palette : BitVec 6 → Colour

end Sys2Proof
end

