-- ==== Sys2Proof/Machine/State.lean ====
section
/-! DEFINITION. The state of the CORE (10_state.md), the machine right after reset (R65), and the fault and refusal types. -/

namespace Sys2Proof.Machine

/-- A byte memory: the listed bytes, addresses strictly rising, none equal to what an unlisted address reads as
(log entry 2). -/
abbrev Memory := List Host.Cell

/-- The frame buffer `fb[0..239][0..255]` (R40): the listed pixels by `256 * row + column`, keys strictly rising, none equal
to the colour an unlisted pixel holds (log entry 3). -/
abbrev FrameBuffer := List (Nat × Colour)

/-- The CPU registers (R20 to R23), the cycle-debt counter (R27) and the diagnostic call count (R28). -/
structure Cpu where
  a : Byte
  x : Byte
  y : Byte
  sp : Byte
  pc : Addr
  p : Byte
  debt : Nat
  cycles : Nat
deriving DecidableEq, Repr

/-- One 4-byte sprite record in primary-OAM layout (R32, R33). -/
structure OamRecord where
  y : Byte
  id : Byte
  attr : Byte
  x : Byte
deriving DecidableEq, Repr

/-- The PPU (R30 to R41). -/
structure Ppu where
  /-- R30, R271 -/
  ctrl : Byte
  /-- R30, R276 -/
  mask : Byte
  /-- `status` bit 7, R273 -/
  verticalBlank : Bool
  /-- `status` bit 6, R273 -/
  spriteZeroHit : Bool
  /-- `status` bit 5, R273 -/
  spriteOverflow : Bool
  /-- R30, R274 -/
  oamAddr : Byte
  /-- the current loopy register, R31, R41 -/
  v : LoopyReg
  /-- the temporary loopy register, R31, R41 -/
  t : LoopyReg
  /-- R31 -/
  fineX : BitVec 3
  /-- the first/second-write toggle, R31: `false` is 0 -/
  w : Bool
  /-- R31 -/
  dataBuf : Byte
  /-- primary OAM, R32: index 0 to 255 -/
  oam : Memory
  /-- the nametable store, R34: `nt[k][i]` at `1024 * k + i` -/
  nt : Memory
  /-- palette RAM, R35: index 0 to 31 -/
  pal : Memory
  /-- the fallback pattern store, R36: `pat[k][i]` at `4096 * k + i` -/
  pat : Memory
  /-- secondary OAM, R33, as its eight records -/
  secOam : Vector OamRecord 8
  /-- R33 -/
  spriteCount : Nat
  /-- R33 -/
  sprLo : Vector Byte 8
  /-- R33 -/
  sprHi : Vector Byte 8
  /-- R33 -/
  sprX : Vector Byte 8
  /-- R33 -/
  zeroPossible : Bool
  /-- R37: -1 to 260 -/
  scanline : Int
  /-- R37: 0 to 340 -/
  dot : Nat
  /-- R37 -/
  frameComplete : Bool
  /-- R38 -/
  nxId : Byte
  /-- R38 -/
  nxAt : BitVec 2
  /-- R38 -/
  nxLo : Byte
  /-- R38 -/
  nxHi : Byte
  /-- R38 -/
  bgLo : BitVec 16
  /-- R38 -/
  bgHi : BitVec 16
  /-- R38 -/
  atLo : BitVec 16
  /-- R38 -/
  atHi : BitVec 16
  /-- R40 -/
  fb : FrameBuffer
deriving DecidableEq, Repr

/-- The phases of the OAM-DMA controller (R51, R382). -/
inductive DmaState where
  | idle
  | sync
  | read
  | write
deriving DecidableEq, Repr

/-- The OAM-DMA controller (R51). -/
structure Dma where
  state : DmaState
  page : Byte
  cursor : Byte
  data : Byte
deriving DecidableEq, Repr

/-- The nametable mirroring modes (R60, R101). -/
inductive Mirroring where
  | horizontal
  | vertical
  | oneScreenLo
  | oneScreenHi
deriving DecidableEq, Repr

/-- The cartridge (R60): the five values the loader yields and the two byte arrays, each a length and its bytes by offset
(log entry 10). -/
structure Cartridge where
  mapperId : Byte
  prgBanks : Byte
  chrBanks : Byte
  mirroring : Mirroring
  prgLen : Nat
  prg : Memory
  chrLen : Nat
  chr : Memory
deriving DecidableEq, Repr

/-- The two diagnostic events (00_scope.md R14). -/
inductive LogEvent where
  | outOfRange (addr : Addr) (isWrite : Bool)
  | undefinedOpcode (opcode : Byte) (pc : Addr)
deriving DecidableEq, Repr

/-- The whole machine between two `System.Clock` calls. -/
structure State where
  cpu : Cpu
  ppu : Ppu
  /-- internal RAM, R50: index 0 to 2047 -/
  ram : Memory
  dma : Dma
  /-- the two button bytes the host writes, R52 -/
  ctrlIn : Vector Byte 2
  /-- the two latched copies that reads shift out, R52 -/
  ctrlShift : Vector Byte 2
  /-- the cartridge, if one is inserted, R60 -/
  cart : Option Cartridge
  /-- R39 -/
  nmiPending : Bool
  /-- R39, used when `NMI_DELAY` = 1 -/
  nmiArmed : Bool
  /-- the master counter, R53 -/
  master : Nat
  /-- the ghost trace of diagnostic events, newest first (00_scope.md R14, log entry 8) -/
  log : List LogEvent
deriving DecidableEq, Repr

/-- No fault exists: "there is no recoverable-error path" (60_exceptions.md R400), so the type has no constructor and no
step can end in one (log entry 16). -/
inductive Fault where
deriving DecidableEq, Repr

/-- Why an instruction has no meaning. -/
inductive Refusal where
  /-- Raised by an arm of `exec` whose instruction is not modelled: safe.  No arm raises it. -/
  | notModelled (mnemonic : String)
deriving DecidableEq, Repr

/-- What an instruction or a step answers. -/
abbrev Result := Host.Outcome State Fault Refusal

/-- The PPU after reset (R65, 70_reset_and_hazards.md R442), its memories with nothing listed. -/
def Ppu.reset : Ppu where
  ctrl := 0x00#8
  mask := 0x00#8
  verticalBlank := false
  spriteZeroHit := false
  spriteOverflow := false
  oamAddr := 0x00#8
  v := 0#15
  t := 0#15
  fineX := 0#3
  w := false
  dataBuf := 0x00#8
  oam := []
  nt := []
  pal := []
  pat := []
  secOam := Vector.replicate 8 ⟨0xFF#8, 0xFF#8, 0xFF#8, 0xFF#8⟩
  spriteCount := 0
  sprLo := Vector.replicate 8 0#8
  sprHi := Vector.replicate 8 0#8
  sprX := Vector.replicate 8 0#8
  zeroPossible := false
  scanline := -1
  dot := 0
  frameComplete := false
  nxId := 0x00#8
  nxAt := 0#2
  nxLo := 0x00#8
  nxHi := 0x00#8
  bgLo := 0#16
  bgHi := 0#16
  atLo := 0#16
  atHi := 0#16
  fb := []

/-- The machine right after `System.Reset` (R65, R440 to R443) with no cartridge inserted (log entry 5), so that the reset
vector reads 0x0000 and its two reads are logged (R95, R441); no memory byte (log entry 2) and no pixel (log entry 3)
written, no button pressed (log entry 4). -/
def State.reset : State where
  cpu := { a := 0x00#8, x := 0x00#8, y := 0x00#8, sp := 0xFD#8, pc := 0x0000#16, p := 0x24#8, debt := 7, cycles := 0 }
  ppu := Ppu.reset
  ram := []
  dma := { state := .idle, page := 0x00#8, cursor := 0x00#8, data := 0x00#8 }
  ctrlIn := Vector.replicate 2 0#8
  ctrlShift := Vector.replicate 2 0#8
  cart := none
  nmiPending := false
  nmiArmed := false
  master := 0
  log := [.outOfRange 0xFFFD#16 false, .outOfRange 0xFFFC#16 false]

end Sys2Proof.Machine
end

