-- ==== Sys2Proof/Machine/Flags.lean ====
section
/-! DEFINITION. The status register's flags (10_state.md R23 to R26) and every flag computation of files 43 to 46. -/

namespace Sys2Proof.Machine

/-- The eight flags of `P` (R23). -/
inductive Flag where
  | c
  | z
  | i
  | d
  | b
  | u
  | v
  | n
deriving DecidableEq, Repr

/-- The bit position of a flag in `P` (R23). -/
def Flag.bit : Flag → Nat
  | .c => 0
  | .z => 1
  | .i => 2
  | .d => 3
  | .b => 4
  | .u => 5
  | .v => 6
  | .n => 7

/-- The mask of a flag in `P` (R23). -/
def Flag.mask (f : Flag) : Byte := 1#8 <<< f.bit

/-- Read a flag of a status byte. -/
def getFlag (f : Flag) (p : Byte) : Bool := p.getLsbD f.bit

/-- Write a flag of a status byte, the other seven kept. -/
def setFlag (f : Flag) (value : Bool) (p : Byte) : Byte :=
  if value then p ||| f.mask else p &&& ~~~f.mask

/-- `SetZN(r)`: Z is whether `r` is 0, N is bit 7 of `r` (00_scope.md R13). -/
def setZN (r p : Byte) : Byte := setFlag .n r.msb (setFlag .z (r == 0#8) p)

/-- The status byte PHP and BRK push: Break and Unused both 1 (R25, R238, R250). -/
def statusPushedByInstruction (p : Byte) : Byte := p ||| 0x30#8

/-- The status byte IRQ and NMI entry push: Break 0, Unused 1 (R25, R402). -/
def statusPushedByInterrupt (p : Byte) : Byte := (p &&& 0xEF#8) ||| 0x20#8

/-- What PLP and RTI load into `P`: bits 4 and 5 of the pulled byte ignored (R25, R240, R249). -/
def statusPulled (b : Byte) : Byte := (b &&& 0xCF#8) ||| 0x20#8

/-- The result and the two carries of `AddWithCarry` (46_adc_sbc.md R212). -/
structure AddResult where
  value : Byte
  carry : Bool
  overflow : Bool
deriving DecidableEq, Repr

/-- `AddWithCarry(a, m, c)` (R212): the unbounded sum, its low byte, whether it exceeds 0xFF, and whether `a` and `m` agree
in bit 7 and the result does not. -/
def addWithCarry (a m : Byte) (c : Bool) : AddResult :=
  let s := a.toNat + m.toNat + c.toNat
  let r := BitVec.ofNat 8 s
  { value := r, carry := decide (0xFF < s), overflow := ((a ^^^ r) &&& (m ^^^ r)).msb }

/-- The status after ADC or SBC: C and V from the addition, Z and N from its result (R210, R211). -/
def addFlags (r : AddResult) (p : Byte) : Byte :=
  setZN r.value (setFlag .v r.overflow (setFlag .c r.carry p))

/-- `Compare(r, m)` (45_compare.md R203): unsigned `r >= m` into C, equality into Z, bit 7 of the difference into N. -/
def compareFlags (r m p : Byte) : Byte :=
  setFlag .n (r - m).msb (setFlag .z (r == m) (setFlag .c (decide (m.toNat ≤ r.toNat)) p))

/-- BIT (44_logical.md R193): Z from the AND of `a` and `m`, N and V from bits 7 and 6 of `m` itself. -/
def bitFlags (a m p : Byte) : Byte :=
  setFlag .v (m.getLsbD 6) (setFlag .n m.msb (setFlag .z ((a &&& m) == 0#8) p))

/-- The result and the new status of a one-operand modification. -/
structure ModifyResult where
  value : Byte
  status : Byte
deriving DecidableEq, Repr

/-- ASL (43_shift_rotate.md R180): C is old bit 7, 0 enters bit 0. -/
def aslByte (m p : Byte) : ModifyResult :=
  let r := m <<< 1
  { value := r, status := setZN r (setFlag .c m.msb p) }

/-- LSR (R181): C is old bit 0, 0 enters bit 7. -/
def lsrByte (m p : Byte) : ModifyResult :=
  let r := m >>> 1
  { value := r, status := setZN r (setFlag .c (m.getLsbD 0) p) }

/-- ROL (R182): C is old bit 7, the old C enters bit 0. -/
def rolByte (m p : Byte) : ModifyResult :=
  let r := (m <<< 1) ||| (if getFlag .c p then 0x01#8 else 0x00#8)
  { value := r, status := setZN r (setFlag .c m.msb p) }

/-- ROR (R183): C is old bit 0, the old C enters bit 7. -/
def rorByte (m p : Byte) : ModifyResult :=
  let r := (m >>> 1) ||| (if getFlag .c p then 0x80#8 else 0x00#8)
  { value := r, status := setZN r (setFlag .c (m.getLsbD 0) p) }

/-- INC (42_incdec.md R170): `u8(m + 1)`, only Z and N written. -/
def incByte (m p : Byte) : ModifyResult :=
  let r := m + 1#8
  { value := r, status := setZN r p }

/-- DEC (R171): `u8(m - 1)`, only Z and N written. -/
def decByte (m p : Byte) : ModifyResult :=
  let r := m - 1#8
  { value := r, status := setZN r p }

end Sys2Proof.Machine
end

