-- ==== Sys2Proof/Machine/Cells.lean ====
section
/-! DEFINITION. Sorted lists of keyed cells, and on them the byte memories and the frame buffer. -/

namespace Sys2Proof.Machine

/-- The value at a key, if the key is listed. -/
def cellsGet {α : Type} : List (Nat × α) → Nat → Option α
  | [], _ => none
  | (k, v) :: rest, a => if a = k then some v else cellsGet rest a

/-- Take a key out of the list. -/
def cellsErase {α : Type} : List (Nat × α) → Nat → List (Nat × α)
  | [], _ => []
  | (k, v) :: rest, a => if a = k then cellsErase rest a else (k, v) :: cellsErase rest a

/-- Put a cell before the first larger key. -/
def cellsInsert {α : Type} : List (Nat × α) → Nat → α → List (Nat × α)
  | [], a, b => [(a, b)]
  | (k, v) :: rest, a, b => if a < k then (a, b) :: (k, v) :: rest else (k, v) :: cellsInsert rest a b

/-- Make `b` the one value listed at `a`. -/
def cellsPut {α : Type} (m : List (Nat × α)) (a : Nat) (b : α) : List (Nat × α) :=
  cellsInsert (cellsErase m a) a b

/-- The keys rise strictly from above `lo` and stay below `hi`. -/
def cellsRising {α : Type} : List (Nat × α) → Nat → Nat → Bool
  | [], _, _ => true
  | (k, _) :: rest, lo, hi => lo ≤ k && k < hi && cellsRising rest (k + 1) hi

/-- The value at a key; `dflt` where none is listed. -/
def cellsRead {α : Type} (dflt : α) (m : List (Nat × α)) (a : Nat) : α := (cellsGet m a).getD dflt

/-- Make `b` what the list reads at `a`, listing no value equal to `dflt`. -/
def cellsWrite {α : Type} [DecidableEq α] (dflt : α) (m : List (Nat × α)) (a : Nat) (b : α) : List (Nat × α) :=
  if b = dflt then cellsErase m a else cellsPut m a b

/-- The canonical form of `size` cells: keys strictly rising and below `size`, no listed value equal to `dflt`. -/
def cellsWf {α : Type} [DecidableEq α] (dflt : α) (size : Nat) (m : List (Nat × α)) : Bool :=
  cellsRising m 0 size && m.all fun c => decide (c.2 ≠ dflt)

/-- What a byte nothing has written reads as.  The spec leaves power-on contents open (`INIT_MEM`, R10, D36); 0x00 is the
model's choice for bytes a state does not list (log entry 2). -/
def unlistedByte : Byte := 0x00#8

/-- The colour of a pixel nothing has written.  The spec leaves the power-on frame buffer open (`INIT_MEM`, R10, R40, D36);
0x00000000 is the model's choice for pixels a state does not list (log entry 3). -/
def unlistedColour : Colour := 0x00000000#32

/-- Read one byte of a memory. -/
def Memory.read (m : Memory) (a : Nat) : Byte := cellsRead unlistedByte m a

/-- Write one byte of a memory, keeping the canonical form. -/
def Memory.write (m : Memory) (a : Nat) (b : Byte) : Memory := cellsWrite unlistedByte m a b

/-- The canonical form of a memory of `size` bytes. -/
def Memory.wf (size : Nat) (m : Memory) : Bool := cellsWf unlistedByte size m

/-- The place of `fb[row][column]` in the listing (R40). -/
def pixelIndex (row column : Nat) : Nat := 256 * row + column

/-- `fb[row][column]` (R40). -/
def FrameBuffer.pixel (fb : FrameBuffer) (row column : Nat) : Colour :=
  cellsRead unlistedColour fb (pixelIndex row column)

/-- `fb[row][column] <- colour` (R352). -/
def FrameBuffer.plot (fb : FrameBuffer) (row column : Nat) (colour : Colour) : FrameBuffer :=
  cellsWrite unlistedColour fb (pixelIndex row column) colour

/-- The canonical form of the frame buffer: 240 rows of 256. -/
def FrameBuffer.wf (fb : FrameBuffer) : Bool := cellsWf unlistedColour (240 * 256) fb

end Sys2Proof.Machine
end

