-- ==== Sys2Proof/Machine/Cartridge.lean ====
section
/-! DEFINITION. The NROM mapper and the cartridge (20_memory.md R90 to R95, 10_state.md R60). -/

namespace Sys2Proof.Machine

/-- `NromCpu` (R91), used for the read and the write translation: the window is 16 KB with one PRG bank, else 32 KB. -/
def nromCpu (prgBanks : Byte) (a : Addr) : Option Nat :=
  if 0x8000 ≤ a.toNat then some (a.toNat % (if prgBanks = 1#8 then 0x4000 else 0x8000)) else none

/-- `NromPpuRead` (R93). -/
def nromPpuRead (i : Nat) : Option Nat := if i ≤ 0x1FFF then some i else none

/-- `NromPpuWrite` (R93): writes only when CHR is RAM. -/
def nromPpuWrite (chrBanks : Byte) (i : Nat) : Option Nat :=
  if i ≤ 0x1FFF ∧ chrBanks = 0#8 then some i else none

/-- `CartCpuRead` (R94): the byte if the cartridge claims the access; with no cartridge nothing is claimed (R95). -/
def cartCpuRead : Option Cartridge → Addr → Option Byte
  | none, _ => none
  | some c, a => (nromCpu c.prgBanks a).map fun off => Memory.read c.prg off

/-- `CartCpuWrite` (R94): whether the cartridge claims the access; a claimed write is discarded, PRG being immutable. -/
def cartCpuWrite : Option Cartridge → Addr → Bool
  | none, _ => false
  | some c, a => (nromCpu c.prgBanks a).isSome

/-- `CartPpuRead` (R94). -/
def cartPpuRead : Option Cartridge → Nat → Option Byte
  | none, _ => none
  | some c, i => (nromPpuRead i).map fun off => Memory.read c.chr off

/-- `CartPpuWrite` (R94): the cartridge with the byte stored, if it claims the access. -/
def cartPpuWrite : Option Cartridge → Nat → Byte → Option Cartridge
  | none, _, _ => none
  | some c, i, b => (nromPpuWrite c.chrBanks i).map fun off => { c with chr := Memory.write c.chr off b }

/-- A legal cartridge configuration (R92). -/
def Cartridge.legal (c : Cartridge) : Bool :=
  c.mapperId = 0#8 && (c.prgBanks = 1#8 || c.prgBanks = 2#8) && (c.chrBanks = 0#8 || c.chrBanks = 1#8) &&
    c.prgLen = c.prgBanks.toNat * 16384 && c.chrLen = 8192

/-- The two listings stand for byte arrays of the cartridge's lengths (log entry 10). -/
def Cartridge.wf (c : Cartridge) : Bool := Memory.wf c.prgLen c.prg && Memory.wf c.chrLen c.chr

/-- The mirroring mode in force; Horizontal with no cartridge (R101). -/
def mirroringOf : Option Cartridge → Mirroring
  | none => .horizontal
  | some c => c.mirroring

end Sys2Proof.Machine
end

