-- ==== Sys2Proof/Machine/PpuBus.lean ====
section
/-! DEFINITION. The PPU-side address space (20_memory.md R97 to R102). -/

namespace Sys2Proof.Machine

/-- `phys(a)` (R101): the physical nametable behind a PPU address, from its 1 KB stride in the 4 KB window. -/
def physicalTable (m : Mirroring) (i : Nat) : Nat :=
  let index := i % 0x1000 / 0x400
  match m with
  | .vertical => index % 2
  | .horizontal => index / 2
  | .oneScreenLo => 0
  | .oneScreenHi => 1

/-- The place of a nametable address in the 2 KB store: `nt[phys(a)][a & 0x03FF]` (R98, R101). -/
def nametableIndex (m : Mirroring) (i : Nat) : Nat := 1024 * physicalTable m i + i % 1024

/-- `pidx(a)` (R102): entries 0x10, 0x14, 0x18, 0x1C are 0x00, 0x04, 0x08, 0x0C. -/
def paletteIndex (i : Nat) : Nat :=
  let k := i % 32
  if k = 0x10 ∨ k = 0x14 ∨ k = 0x18 ∨ k = 0x1C then k - 0x10 else k

/-- `mask[0]`, greyscale (50_ppu_registers.md R276). -/
def Ppu.grayscale (u : Ppu) : Bool := u.mask.getLsbD 0

/-- The mask a palette read applies (R102). -/
def Ppu.paletteMask (u : Ppu) : Byte := if u.grayscale then 0x30#8 else 0x3F#8

/-- `PpuRead(a)` (R97, R98): the address is reduced to 14 bits; pattern range with the cartridge first (R100), nametables
(R101), palette (R102).  No read has a side effect. -/
def ppuRead (cart : Option Cartridge) (u : Ppu) (a : Addr) : Byte :=
  let i := a.toNat % 0x4000
  if i ≤ 0x1FFF then (cartPpuRead cart i).getD (Memory.read u.pat i)
  else if i ≤ 0x3EFF then Memory.read u.nt (nametableIndex (mirroringOf cart) i)
  else Memory.read u.pal (paletteIndex i) &&& u.paletteMask

/-- `PpuWrite(a, x)` (R97, R99). -/
def ppuWrite (a : Addr) (x : Byte) (s : State) : State :=
  let i := a.toNat % 0x4000
  if i ≤ 0x1FFF then
    match cartPpuWrite s.cart i x with
    | some c => { s with cart := some c }
    | none => { s with ppu := { s.ppu with pat := Memory.write s.ppu.pat i x } }
  else if i ≤ 0x3EFF then
    { s with ppu := { s.ppu with nt := Memory.write s.ppu.nt (nametableIndex (mirroringOf s.cart) i) x } }
  else { s with ppu := { s.ppu with pal := Memory.write s.ppu.pal (paletteIndex i) x } }

end Sys2Proof.Machine
end

