-- ==== Sys2Proof/Machine/PpuRegs.lean ====
section
/-! DEFINITION. The loopy registers (10_state.md R41) and the PPU registers as the CPU bus sees them (50_ppu_registers.md). -/

namespace Sys2Proof.Machine

/-- The named sub-fields of a loopy register (R41). -/
inductive LoopyField where
  | coarseX
  | coarseY
  | nametableX
  | nametableY
  | fineY
deriving DecidableEq, Repr

/-- The bit offset of a field (R41). -/
def LoopyField.offset : LoopyField → Nat
  | .coarseX => 0
  | .coarseY => 5
  | .nametableX => 10
  | .nametableY => 11
  | .fineY => 12

/-- The width of a field (R41). -/
def LoopyField.width : LoopyField → Nat
  | .coarseX => 5
  | .coarseY => 5
  | .nametableX => 1
  | .nametableY => 1
  | .fineY => 3

/-- `(1 << n) - 1` for a field of width `n` (R41). -/
def LoopyField.ones (f : LoopyField) : LoopyReg := BitVec.ofNat 15 (2 ^ f.width - 1)

/-- Read a field of a loopy register. -/
def loopyGet (f : LoopyField) (reg : LoopyReg) : Nat := ((reg >>> f.offset) &&& f.ones).toNat

/-- The field write rule of R41: the value is masked to the field, the other bits are kept. -/
def loopySet (f : LoopyField) (x : Nat) (reg : LoopyReg) : LoopyReg :=
  (reg &&& ~~~(f.ones <<< f.offset)) ||| ((BitVec.ofNat 15 x &&& f.ones) <<< f.offset)

/-- Copy one field from another loopy register (51_ppu_rendering.md R328, R329). -/
def loopyCopy (f : LoopyField) (src dst : LoopyReg) : LoopyReg := loopySet f (loopyGet f src) dst

/-- `ctrl.increment_mode`: what a data-port access adds to `v`, 1 or 32 (R271, R288). -/
def Ppu.increment (u : Ppu) : LoopyReg := if u.ctrl.getLsbD 2 then 32#15 else 1#15

/-- The PPU with `v` advanced after a data-port access, modulo 32768 (R288). -/
def Ppu.advanceV (u : Ppu) : Ppu := { u with v := u.v + u.increment }

/-- The PPU-bus address a data-port access uses: `v & 0x3FFF` (R285, R288). -/
def Ppu.dataAddr (u : Ppu) : Addr := u.v.setWidth 16 &&& 0x3FFF#16

/-- The byte a read of 0x2002 returns: the three flags and the low five bits of the data buffer (R279). -/
def Ppu.statusByte (u : Ppu) : Byte :=
  (if u.verticalBlank then 0x80#8 else 0x00#8) ||| (if u.spriteZeroHit then 0x40#8 else 0x00#8) |||
    (if u.spriteOverflow then 0x20#8 else 0x00#8) ||| (u.dataBuf &&& 0x1F#8)

/-- `PpuRegRead(r)` (R270): 0x2002 (R279), 0x2004 (R281), 0x2007 (R285); the write-only registers read 0x00 and change
nothing (R287). -/
def ppuRegRead (r : Nat) (s : State) : Byte × State :=
  match r with
  | 2 => (s.ppu.statusByte, { s with ppu := { s.ppu with verticalBlank := false, w := false } })
  | 4 => (Memory.read s.ppu.oam s.ppu.oamAddr.toNat, s)
  | 7 =>
    let fetched := ppuRead s.cart s.ppu s.ppu.dataAddr
    let result := if 0x3F00 ≤ s.ppu.dataAddr.toNat then fetched else s.ppu.dataBuf
    (result, { s with ppu := Ppu.advanceV { s.ppu with dataBuf := fetched } })
  | _ => (0x00#8, s)

/-- Write 0x2000 (R277): `ctrl`, and the nametable bits of `t`. -/
def Ppu.writeCtrl (x : Byte) (u : Ppu) : Ppu :=
  { u with
    ctrl := x
    t := loopySet .nametableY (x.getLsbD 1).toNat (loopySet .nametableX (x.getLsbD 0).toNat u.t) }

/-- Write 0x2004 (R282): the byte at `oam_addr`, which then grows by one. -/
def Ppu.writeOam (x : Byte) (u : Ppu) : Ppu :=
  { u with oam := Memory.write u.oam u.oamAddr.toNat x, oamAddr := u.oamAddr + 1#8 }

/-- Write 0x2005 (R283): first fine and coarse X, then fine and coarse Y, through `w`. -/
def Ppu.writeScroll (x : Byte) (u : Ppu) : Ppu :=
  if u.w then
    { u with t := loopySet .coarseY (x >>> 3).toNat (loopySet .fineY (x.extractLsb' 0 3).toNat u.t), w := false }
  else { u with fineX := x.extractLsb' 0 3, t := loopySet .coarseX (x >>> 3).toNat u.t, w := true }

/-- Write 0x2006 (R284): first the high six bits of `t`, bit 14 cleared, then its low byte and the copy to `v`. -/
def Ppu.writeAddress (x : Byte) (u : Ppu) : Ppu :=
  if u.w then
    let t := (u.t &&& 0x7F00#15) ||| x.setWidth 15
    { u with t := t, v := t, w := false }
  else { u with t := ((x &&& 0x3F#8).setWidth 15 <<< 8) ||| (u.t &&& 0x00FF#15), w := true }

/-- Write 0x2007 (R286): the byte to the PPU bus at `v`, then `v` advances. -/
def ppuDataWrite (x : Byte) (s : State) : State :=
  let s1 := ppuWrite s.ppu.dataAddr x s
  { s1 with ppu := s1.ppu.advanceV }

/-- `PpuRegWrite(r, x)` (R270): R277, R278, R280, R282, R283, R284, R286; a write to 0x2002 changes nothing (R287). -/
def ppuRegWrite (r : Nat) (x : Byte) (s : State) : State :=
  match r with
  | 0 => { s with ppu := s.ppu.writeCtrl x }
  | 1 => { s with ppu := { s.ppu with mask := x } }
  | 3 => { s with ppu := { s.ppu with oamAddr := x } }
  | 4 => { s with ppu := s.ppu.writeOam x }
  | 5 => { s with ppu := s.ppu.writeScroll x }
  | 6 => { s with ppu := s.ppu.writeAddress x }
  | 7 => ppuDataWrite x s
  | _ => s

end Sys2Proof.Machine
end

