-- ==== Sys2Proof/Machine/Ops.lean ====
section
/-! DEFINITION. The shared operations: register updates, the CPU bus (20_memory.md R75 to R85), the stack primitives
(48_stack.md R235, R236), interrupt entry and return (60_exceptions.md R402, 49_jump_system_flags.md R249), and reset
(70_reset_and_hazards.md R440 to R442). -/

namespace Sys2Proof.Machine

/-! ## Register updates -/

/-- `A <- v`. -/
def State.setA (v : Byte) (s : State) : State := { s with cpu := { s.cpu with a := v } }

/-- `X <- v`. -/
def State.setX (v : Byte) (s : State) : State := { s with cpu := { s.cpu with x := v } }

/-- `Y <- v`. -/
def State.setY (v : Byte) (s : State) : State := { s with cpu := { s.cpu with y := v } }

/-- `SP <- v`. -/
def State.setSp (v : Byte) (s : State) : State := { s with cpu := { s.cpu with sp := v } }

/-- `PC <- v`. -/
def State.setPc (v : Addr) (s : State) : State := { s with cpu := { s.cpu with pc := v } }

/-- `P <- v`. -/
def State.setP (v : Byte) (s : State) : State := { s with cpu := { s.cpu with p := v } }

/-- `SetZN(r)` (00_scope.md R13). -/
def State.setZN (r : Byte) (s : State) : State := s.setP (Machine.setZN r s.cpu.p)

/-- Write one flag of `P`. -/
def State.setFlag (f : Flag) (value : Bool) (s : State) : State := s.setP (Machine.setFlag f value s.cpu.p)

/-- Add to the cycle-debt counter (R376, R402). -/
def State.addDebt (n : Nat) (s : State) : State := { s with cpu := { s.cpu with debt := s.cpu.debt + n } }

/-- `Cost(c)`: the instruction occupies `c` CPU clocks, of which the executing one is the first, so `c - 1` are owed
(55_system_clock_dma.md R375, R376). -/
def State.cost (c : Nat) (s : State) : State := s.addDebt (c - 1)

/-- Record a diagnostic event (00_scope.md R14). -/
def State.record (e : LogEvent) (s : State) : State := { s with log := e :: s.log }

/-! ## The CPU bus -/

/-- What answers a CPU-bus address that the cartridge does not claim (R75 to R84). -/
inductive BusRegion where
  | ram (index : Nat)
  | ppuRegister (r : Nat)
  | oamDma
  | controller (port : Fin 2)
  | unclaimed
deriving DecidableEq, Repr

/-- The address map below the cartridge (R78, R79, R81, R82, R84). -/
def busRegion (a : Addr) : BusRegion :=
  if a.toNat ≤ 0x1FFF then .ram (a.toNat % 0x0800)
  else if a.toNat ≤ 0x3FFF then .ppuRegister (a.toNat % 8)
  else if a = 0x4014#16 then .oamDma
  else if a = 0x4016#16 then .controller 0
  else if a = 0x4017#16 then .controller 1
  else .unclaimed

/-- `ControllerRead(i)` (R81): the latched byte shifts out bit 7 first, 0 enters bit 0. -/
def controllerRead (port : Fin 2) (s : State) : Byte × State :=
  let latched := s.ctrlShift[port]
  (if latched.msb then 0x01#8 else 0x00#8, { s with ctrlShift := s.ctrlShift.set port (latched <<< 1) })

/-- `ControllerWrite(i, v)` (R80): any value latches the button byte. -/
def controllerWrite (port : Fin 2) (s : State) : State :=
  { s with ctrlShift := s.ctrlShift.set port s.ctrlIn[port] }

/-- `DmaArm(v)` (R82): the page, the cursor at 0, and the transfer armed. -/
def dmaArm (v : Byte) (s : State) : State :=
  { s with dma := { s.dma with page := v, cursor := 0x00#8, state := .sync } }

/-- `MemRead(addr, 1)` (R76): the cartridge first, then RAM, PPU registers, controllers; an address nobody claims reads 0x00
and is logged (R83), a read of 0x4014 among them (R82). -/
def memRead (a : Addr) (s : State) : Byte × State :=
  match cartCpuRead s.cart a with
  | some b => (b, s)
  | none =>
    match busRegion a with
    | .ram i => (Memory.read s.ram i, s)
    | .ppuRegister r => ppuRegRead r s
    | .controller port => controllerRead port s
    | .oamDma => (0x00#8, s.record (.outOfRange a false))
    | .unclaimed => (0x00#8, s.record (.outOfRange a false))

/-- `MemWrite(addr, 1, v)` (R77): a claimed write to PRG is discarded (R94), one nobody claims is logged (R83). -/
def memWrite (a : Addr) (v : Byte) (s : State) : State :=
  if cartCpuWrite s.cart a then s
  else
    match busRegion a with
    | .ram i => { s with ram := Memory.write s.ram i v }
    | .ppuRegister r => ppuRegWrite r v s
    | .oamDma => dmaArm v s
    | .controller port => controllerWrite port s
    | .unclaimed => s.record (.outOfRange a true)

/-- `Read16(a)` (00_scope.md R13): low byte first. -/
def read16 (a : Addr) (s : State) : Addr × State :=
  let lo := memRead a s
  let hi := memRead (a + 1#16) lo.2
  (addrOf lo.1 hi.1, hi.2)

/-! ## The stack -/

/-- The stack address `0x0100 | SP` (10_state.md R21). -/
def stackAddr (sp : Byte) : Addr := addrOf sp 0x01#8

/-- `Push(v)` (R235): write at `0x0100 | SP`, then SP down by one modulo 256. -/
def push (v : Byte) (s : State) : State :=
  let s1 := memWrite (stackAddr s.cpu.sp) v s
  s1.setSp (s1.cpu.sp - 1#8)

/-- `Pull()` (R236): SP up by one modulo 256, then read at `0x0100 | SP`. -/
def pull (s : State) : Byte × State :=
  let s1 := s.setSp (s.cpu.sp + 1#8)
  memRead (stackAddr s1.cpu.sp) s1

/-- Push a 16-bit value, high byte first (R235). -/
def push16 (v : Addr) (s : State) : State := push (loByte v) (push (hiByte v) s)

/-- Pull a 16-bit value, low byte first (R236). -/
def pull16 (s : State) : Addr × State :=
  let lo := pull s
  let hi := pull lo.2
  (addrOf lo.1 hi.1, hi.2)

/-! ## Interrupt entry and return -/

/-- What BRK and the interrupts share (R250, R402): push PC and a status byte, set I, load PC from the vector. -/
def enterHandler (statusByte : Byte) (vec : Addr) (s : State) : State :=
  let s1 := push statusByte (push16 s.cpu.pc s)
  let r := read16 vec (s1.setFlag .i true)
  r.2.setPc r.1

/-- `Interrupt(vec)` (R402): status pushed with Break 0 and Unused 1, 7 cycles added to the debt. -/
def interrupt (vec : Addr) (s : State) : State :=
  (enterHandler (statusPushedByInterrupt s.cpu.p) vec s).addDebt 7

/-- The NMI vector (R402). -/
def nmiVector : Addr := 0xFFFA#16

/-- The reset vector (R402, R441). -/
def resetVector : Addr := 0xFFFC#16

/-- The vector IRQ and BRK share (R402). -/
def irqVector : Addr := 0xFFFE#16

/-- `CPU.NMI()` (R404): unconditional. -/
def cpuNmi (s : State) : State := interrupt nmiVector s

/-- `CPU.IRQ()` (R405): dropped when `P.I` is 1. -/
def cpuIrq (s : State) : State := if getFlag .i s.cpu.p then s else interrupt irqVector s

/-- The pulls of RTI (R249, R410): status with bits 4 and 5 ignored, then PC, with no 1 added. -/
def returnFromInterrupt (s : State) : State :=
  let b := pull s
  let r := pull16 (b.2.setP (statusPulled b.1))
  r.2.setPc r.1

/-! ## Reset -/

/-- `CPU.Reset()` (R441). -/
def cpuReset (p : Params) (s : State) : State :=
  let r := read16 resetVector s
  { r.2 with
    cpu :=
      { a := p.resetA, x := p.resetX, y := p.resetY, sp := p.resetSp, p := p.resetP, pc := r.1, debt := p.resetCycles,
        cycles := 0 } }

/-- `PPU.Reset()` (R442): every register, latch, shifter and counter; the memories and the frame buffer stay (R443). -/
def ppuReset (u : Ppu) : Ppu :=
  { Ppu.reset with oam := u.oam, nt := u.nt, pal := u.pal, pat := u.pat, fb := u.fb }

/-- `System.Reset()` (R440). -/
def systemReset (p : Params) (s : State) : State :=
  let s1 := cpuReset p s
  { s1 with
    ppu := ppuReset s1.ppu
    master := 0
    dma := { state := .idle, page := 0x00#8, cursor := 0x00#8, data := 0x00#8 }
    ctrlShift := Vector.replicate 2 0#8
    nmiPending := false
    nmiArmed := false }

/-- `System.InsertCartridge(cart)` (R445): a legal cartridge is wired in and a full Reset runs; any other changes nothing
(R92). -/
def insertCartridge (p : Params) (c : Cartridge) (s : State) : State :=
  if c.legal && c.wf then systemReset p { s with cart := some c } else s

end Sys2Proof.Machine
end

