-- ==== Sys2Proof/Machine/Operands.lean ====
section
/-! DEFINITION. The addressing-mode resolvers (30_encoding.md R125 to R138) and what every operand form shares: reading an
operand, storing to it, modifying it in memory.  The operand bytes were fetched with the instruction (R123), so a resolver
starts from them, with PC already past the instruction (log entry 9). -/

namespace Sys2Proof.Machine

/-- An operand form with its operand byte or word: immediate R127, zero page R128, zero page X R129, zero page Y R130,
absolute R131, absolute X R132, absolute Y R135, (indirect,X) R133, (indirect),Y R134. -/
inductive Operand where
  | imm (d : Byte)
  | zp (d : Byte)
  | zpX (d : Byte)
  | zpY (d : Byte)
  | abs (a : Addr)
  | absX (a : Addr)
  | absY (a : Addr)
  | indX (d : Byte)
  | indY (d : Byte)
deriving DecidableEq, Repr

/-- What a resolver answers: `ea`, `crossed`, and the state after its pointer reads. -/
structure Resolved where
  ea : Addr
  crossed : Bool
  st : State
deriving DecidableEq, Repr

/-- What reading an operand answers: the byte, `crossed`, and the state after the accesses. -/
structure OperandRead where
  value : Byte
  crossed : Bool
  st : State
deriving DecidableEq, Repr

/-- A zero-page address (R128). -/
def zeroPage (d : Byte) : Addr := addrOf d 0x00#8

/-- Whether two addresses lie in different pages (R132, R220). -/
def pagesDiffer (a b : Addr) : Bool := hiByte a != hiByte b

/-- `base + index` modulo 65536, with its page-cross indicator (R132, R134, R135). -/
def indexed (base : Addr) (index : Byte) (s : State) : Resolved :=
  let ea := base + index.setWidth 16
  { ea := ea, crossed := pagesDiffer ea base, st := s }

/-- The pointer in page 0 at `p` and `u8(p + 1)` (R133, R134). -/
def readPointer (p : Byte) (s : State) : Addr × State :=
  let lo := memRead (zeroPage p) s
  let hi := memRead (zeroPage (p + 1#8)) lo.2
  (addrOf lo.1 hi.1, hi.2)

/-- The effective address of each operand form. An immediate operand's address is its own, the last byte of the instruction
(R127). -/
def resolve (o : Operand) (s : State) : Resolved :=
  match o with
  | .imm _ => { ea := s.cpu.pc - 1#16, crossed := false, st := s }
  | .zp d => { ea := zeroPage d, crossed := false, st := s }
  | .zpX d => { ea := zeroPage (d + s.cpu.x), crossed := false, st := s }
  | .zpY d => { ea := zeroPage (d + s.cpu.y), crossed := false, st := s }
  | .abs a => { ea := a, crossed := false, st := s }
  | .absX a => indexed a s.cpu.x s
  | .absY a => indexed a s.cpu.y s
  | .indX d =>
    let r := readPointer (d + s.cpu.x) s
    { ea := r.1, crossed := false, st := r.2 }
  | .indY d =>
    let r := readPointer d s
    indexed r.1 s.cpu.y r.2

/-- The operand byte `m`: the fetched byte for immediate (R127), else `MemRead(ea, 1)`. -/
def readOperand (o : Operand) (s : State) : OperandRead :=
  match o with
  | .imm d => { value := d, crossed := false, st := s }
  | o =>
    let e := resolve o s
    let m := memRead e.ea e.st
    { value := m.1, crossed := e.crossed, st := m.2 }

/-- The page-cross cycle of the `+p` instructions (R138). -/
def pageCycle (crossed : Bool) : Nat := if crossed then 1 else 0

/-- An instruction that reads an operand: `m <- MemRead(ea, 1)`, its effect `f`, `Cost(base + (crossed ? 1 : 0))`. Of its
forms only `abx`, `aby` and `izy` can signal a cross, and for these the instruction is one of R138. -/
def readingInstr (o : Operand) (base : Nat) (f : Byte → State → State) (s : State) : Result :=
  let r := readOperand o s
  .next ((f r.value r.st).cost (base + pageCycle r.crossed))

/-- A store: `MemWrite(ea, 1, v); Cost(base)`, whether or not a page is crossed (R138, R153). -/
def storingInstr (o : Operand) (base : Nat) (v : Byte) (s : State) : Result :=
  let e := resolve o s
  .next ((memWrite e.ea v e.st).cost base)

/-- A read-modify-write instruction on memory: one read, then one write, and the flags from the value written whether or
not the write is discarded (20_memory.md R73, 42_incdec.md R170); fixed cost (R138). -/
def modifyingInstr (o : Operand) (base : Nat) (f : Byte → Byte → ModifyResult) (s : State) : Result :=
  let e := resolve o s
  let m := memRead e.ea e.st
  let r := f m.1 m.2.cpu.p
  .next (((memWrite e.ea r.value m.2).setP r.status).cost base)

/-- The accumulator form of a shift or rotate (R126): no memory access. -/
def modifyAccumulator (base : Nat) (f : Byte → Byte → ModifyResult) (s : State) : Result :=
  let r := f s.cpu.a s.cpu.p
  .next (((s.setA r.value).setP r.status).cost base)

/-- `sext8(b)` in 16 bits (00_scope.md R11). -/
def sext8 (b : Byte) : Addr := b.signExtend 16

/-- `Branch(cond)` (47_branch.md R220): `PC` is already past the instruction. -/
def branchIf (cond : Bool) (off : Byte) (s : State) : Result :=
  if cond then
    let target := s.cpu.pc + sext8 off
    .next ((s.setPc target).cost (2 + 1 + pageCycle (pagesDiffer target s.cpu.pc)))
  else .next (s.cost 2)

end Sys2Proof.Machine
end

