-- ==== Sys2Proof/Machine/Arith.lean ====
section
/-! DEFINITION. Add and subtract with carry (46_adc_sbc.md R210 to R213). `P.D` is not read (10_state.md R26). -/

namespace Sys2Proof.Machine

/-- `A <- r; P.C <- c; P.V <- v; SetZN(A)` for the addition of `m` to `A` with the carry (R210). -/
def adcA (m : Byte) (s : State) : State :=
  let r := addWithCarry s.cpu.a m (getFlag .c s.cpu.p)
  (s.setA r.value).setP (addFlags r s.cpu.p)

/-- Subtraction is the addition of `m ^ 0xFF` (R211). -/
def sbcA (m : Byte) (s : State) : State := adcA (m ^^^ 0xFF#8) s

/-- ADC immediate (0x69, R210). -/
def execAdcImm (d : Byte) (s : State) : Result := readingInstr (.imm d) 2 adcA s

/-- ADC zero page (0x65, R210). -/
def execAdcZp (d : Byte) (s : State) : Result := readingInstr (.zp d) 3 adcA s

/-- ADC zero page,X (0x75, R210). -/
def execAdcZpX (d : Byte) (s : State) : Result := readingInstr (.zpX d) 4 adcA s

/-- ADC absolute (0x6D, R210). -/
def execAdcAbs (a : Addr) (s : State) : Result := readingInstr (.abs a) 4 adcA s

/-- ADC absolute,X (0x7D, R210). -/
def execAdcAbsX (a : Addr) (s : State) : Result := readingInstr (.absX a) 4 adcA s

/-- ADC absolute,Y (0x79, R210). -/
def execAdcAbsY (a : Addr) (s : State) : Result := readingInstr (.absY a) 4 adcA s

/-- ADC (indirect,X) (0x61, R210). -/
def execAdcIndX (d : Byte) (s : State) : Result := readingInstr (.indX d) 6 adcA s

/-- ADC (indirect),Y (0x71, R210). -/
def execAdcIndY (d : Byte) (s : State) : Result := readingInstr (.indY d) 5 adcA s

/-- SBC immediate (0xE9, R211). -/
def execSbcImm (d : Byte) (s : State) : Result := readingInstr (.imm d) 2 sbcA s

/-- SBC zero page (0xE5, R211). -/
def execSbcZp (d : Byte) (s : State) : Result := readingInstr (.zp d) 3 sbcA s

/-- SBC zero page,X (0xF5, R211). -/
def execSbcZpX (d : Byte) (s : State) : Result := readingInstr (.zpX d) 4 sbcA s

/-- SBC absolute (0xED, R211). -/
def execSbcAbs (a : Addr) (s : State) : Result := readingInstr (.abs a) 4 sbcA s

/-- SBC absolute,X (0xFD, R211). -/
def execSbcAbsX (a : Addr) (s : State) : Result := readingInstr (.absX a) 4 sbcA s

/-- SBC absolute,Y (0xF9, R211). -/
def execSbcAbsY (a : Addr) (s : State) : Result := readingInstr (.absY a) 4 sbcA s

/-- SBC (indirect,X) (0xE1, R211). -/
def execSbcIndX (d : Byte) (s : State) : Result := readingInstr (.indX d) 6 sbcA s

/-- SBC (indirect),Y (0xF1, R211). -/
def execSbcIndY (d : Byte) (s : State) : Result := readingInstr (.indY d) 5 sbcA s

end Sys2Proof.Machine
end

