-- ==== Sys2Proof/Machine/Branch.lean ====
section
/-! DEFINITION. Conditional branches (47_branch.md R220 to R229). -/

namespace Sys2Proof.Machine

/-- BCC (0x90, R222). -/
def execBcc (off : Byte) (s : State) : Result := branchIf (!getFlag .c s.cpu.p) off s

/-- BCS (0xB0, R223). -/
def execBcs (off : Byte) (s : State) : Result := branchIf (getFlag .c s.cpu.p) off s

/-- BEQ (0xF0, R224). -/
def execBeq (off : Byte) (s : State) : Result := branchIf (getFlag .z s.cpu.p) off s

/-- BNE (0xD0, R225). -/
def execBne (off : Byte) (s : State) : Result := branchIf (!getFlag .z s.cpu.p) off s

/-- BMI (0x30, R226). -/
def execBmi (off : Byte) (s : State) : Result := branchIf (getFlag .n s.cpu.p) off s

/-- BPL (0x10, R227). -/
def execBpl (off : Byte) (s : State) : Result := branchIf (!getFlag .n s.cpu.p) off s

/-- BVC (0x50, R228). -/
def execBvc (off : Byte) (s : State) : Result := branchIf (!getFlag .v s.cpu.p) off s

/-- BVS (0x70, R229). -/
def execBvs (off : Byte) (s : State) : Result := branchIf (getFlag .v s.cpu.p) off s

end Sys2Proof.Machine
end

