-- ==== Sys2Proof/Machine/Compare.lean ====
section
/-! DEFINITION. Compare instructions (45_compare.md R200 to R203): they write C, Z and N and nothing else. -/

namespace Sys2Proof.Machine

/-- `Compare(A, m)` (R200). -/
def compareA (m : Byte) (s : State) : State := s.setP (compareFlags s.cpu.a m s.cpu.p)

/-- `Compare(X, m)` (R201). -/
def compareX (m : Byte) (s : State) : State := s.setP (compareFlags s.cpu.x m s.cpu.p)

/-- `Compare(Y, m)` (R202). -/
def compareY (m : Byte) (s : State) : State := s.setP (compareFlags s.cpu.y m s.cpu.p)

/-- CMP immediate (0xC9, R200). -/
def execCmpImm (d : Byte) (s : State) : Result := readingInstr (.imm d) 2 compareA s

/-- CMP zero page (0xC5, R200). -/
def execCmpZp (d : Byte) (s : State) : Result := readingInstr (.zp d) 3 compareA s

/-- CMP zero page,X (0xD5, R200). -/
def execCmpZpX (d : Byte) (s : State) : Result := readingInstr (.zpX d) 4 compareA s

/-- CMP absolute (0xCD, R200). -/
def execCmpAbs (a : Addr) (s : State) : Result := readingInstr (.abs a) 4 compareA s

/-- CMP absolute,X (0xDD, R200). -/
def execCmpAbsX (a : Addr) (s : State) : Result := readingInstr (.absX a) 4 compareA s

/-- CMP absolute,Y (0xD9, R200). -/
def execCmpAbsY (a : Addr) (s : State) : Result := readingInstr (.absY a) 4 compareA s

/-- CMP (indirect,X) (0xC1, R200). -/
def execCmpIndX (d : Byte) (s : State) : Result := readingInstr (.indX d) 6 compareA s

/-- CMP (indirect),Y (0xD1, R200). -/
def execCmpIndY (d : Byte) (s : State) : Result := readingInstr (.indY d) 5 compareA s

/-- CPX immediate (0xE0, R201). -/
def execCpxImm (d : Byte) (s : State) : Result := readingInstr (.imm d) 2 compareX s

/-- CPX zero page (0xE4, R201). -/
def execCpxZp (d : Byte) (s : State) : Result := readingInstr (.zp d) 3 compareX s

/-- CPX absolute (0xEC, R201). -/
def execCpxAbs (a : Addr) (s : State) : Result := readingInstr (.abs a) 4 compareX s

/-- CPY immediate (0xC0, R202). -/
def execCpyImm (d : Byte) (s : State) : Result := readingInstr (.imm d) 2 compareY s

/-- CPY zero page (0xC4, R202). -/
def execCpyZp (d : Byte) (s : State) : Result := readingInstr (.zp d) 3 compareY s

/-- CPY absolute (0xCC, R202). -/
def execCpyAbs (a : Addr) (s : State) : Result := readingInstr (.abs a) 4 compareY s

end Sys2Proof.Machine
end

