-- ==== Sys2Proof/Machine/FlagOps.lean ====
section
/-! DEFINITION. Flag instructions, NOP and the undefined opcodes (49_jump_system_flags.md R251 to R262). -/

namespace Sys2Proof.Machine

/-- CLC (0x18, R251). -/
def execClc (s : State) : Result := .next ((s.setFlag .c false).cost 2)

/-- SEC (0x38, R252). -/
def execSec (s : State) : Result := .next ((s.setFlag .c true).cost 2)

/-- CLI (0x58, R253). -/
def execCli (s : State) : Result := .next ((s.setFlag .i false).cost 2)

/-- SEI (0x78, R254). -/
def execSei (s : State) : Result := .next ((s.setFlag .i true).cost 2)

/-- CLD (0xD8, R255). -/
def execCld (s : State) : Result := .next ((s.setFlag .d false).cost 2)

/-- SED (0xF8, R256). -/
def execSed (s : State) : Result := .next ((s.setFlag .d true).cost 2)

/-- CLV (0xB8, R257). -/
def execClv (s : State) : Result := .next ((s.setFlag .v false).cost 2)

/-- NOP (0xEA, R258). -/
def execNop (s : State) : Result := .next (s.cost 2)

/-- UND, each of the 105 undefined opcode bytes (R139, R262): a 1-byte, 2-cycle no-op that is logged with the address of the
opcode. -/
def execUnd (op : Byte) (s : State) : Result :=
  .next ((s.record (.undefinedOpcode op (s.cpu.pc - 1#16))).cost 2)

end Sys2Proof.Machine
end

