-- ==== Sys2Proof/Machine/IncDec.lean ====
section
/-! DEFINITION. Increment and decrement (42_incdec.md R170 to R175). -/

namespace Sys2Proof.Machine

/-- INC zero page (0xE6, R170). -/
def execIncZp (d : Byte) (s : State) : Result := modifyingInstr (.zp d) 5 incByte s

/-- INC zero page,X (0xF6, R170). -/
def execIncZpX (d : Byte) (s : State) : Result := modifyingInstr (.zpX d) 6 incByte s

/-- INC absolute (0xEE, R170). -/
def execIncAbs (a : Addr) (s : State) : Result := modifyingInstr (.abs a) 6 incByte s

/-- INC absolute,X (0xFE, R170). -/
def execIncAbsX (a : Addr) (s : State) : Result := modifyingInstr (.absX a) 7 incByte s

/-- DEC zero page (0xC6, R171). -/
def execDecZp (d : Byte) (s : State) : Result := modifyingInstr (.zp d) 5 decByte s

/-- DEC zero page,X (0xD6, R171). -/
def execDecZpX (d : Byte) (s : State) : Result := modifyingInstr (.zpX d) 6 decByte s

/-- DEC absolute (0xCE, R171). -/
def execDecAbs (a : Addr) (s : State) : Result := modifyingInstr (.abs a) 6 decByte s

/-- DEC absolute,X (0xDE, R171). -/
def execDecAbsX (a : Addr) (s : State) : Result := modifyingInstr (.absX a) 7 decByte s

/-- INX (0xE8, R172). -/
def execInx (s : State) : Result := .next (((s.setX (s.cpu.x + 1#8)).setZN (s.cpu.x + 1#8)).cost 2)

/-- INY (0xC8, R173). -/
def execIny (s : State) : Result := .next (((s.setY (s.cpu.y + 1#8)).setZN (s.cpu.y + 1#8)).cost 2)

/-- DEX (0xCA, R174). -/
def execDex (s : State) : Result := .next (((s.setX (s.cpu.x - 1#8)).setZN (s.cpu.x - 1#8)).cost 2)

/-- DEY (0x88, R175). -/
def execDey (s : State) : Result := .next (((s.setY (s.cpu.y - 1#8)).setZN (s.cpu.y - 1#8)).cost 2)

end Sys2Proof.Machine
end

