-- ==== Sys2Proof/Machine/Jump.lean ====
section
/-! DEFINITION. Jumps, subroutines, RTI and BRK (49_jump_system_flags.md R245 to R250). -/

namespace Sys2Proof.Machine

/-- The second pointer byte's address of JMP indirect: the high byte of `ptr` is never incremented (R246). -/
def nextInPage (ptr : Addr) : Addr := addrOf (loByte ptr + 1#8) (hiByte ptr)

/-- The target of JMP indirect (R246). -/
def readTarget (ptr : Addr) (s : State) : Addr × State :=
  let lo := memRead ptr s
  let hi := memRead (nextInPage ptr) lo.2
  (addrOf lo.1 hi.1, hi.2)

/-- BRK's effect (R250): the padding byte is skipped, PC and the status with Break 1 are pushed, I is set, and PC comes from
the vector it shares with IRQ. -/
def softwareInterrupt (s : State) : State :=
  let s1 := s.setPc (s.cpu.pc + 1#16)
  enterHandler (statusPushedByInstruction s1.cpu.p) irqVector s1

/-- JMP absolute (0x4C, R245). -/
def execJmpAbs (a : Addr) (s : State) : Result := .next ((s.setPc a).cost 3)

/-- JMP indirect (0x6C, R246). -/
def execJmpInd (ptr : Addr) (s : State) : Result := .next (((readTarget ptr s).2.setPc (readTarget ptr s).1).cost 5)

/-- JSR absolute (0x20, R247). -/
def execJsr (a : Addr) (s : State) : Result := .next (((push16 (s.cpu.pc - 1#16) s).setPc a).cost 6)

/-- RTS (0x60, R248). -/
def execRts (s : State) : Result := .next (((pull16 s).2.setPc ((pull16 s).1 + 1#16)).cost 6)

/-- RTI (0x40, R249). -/
def execRti (s : State) : Result := .next ((returnFromInterrupt s).cost 6)

/-- BRK (0x00, R250). -/
def execBrk (s : State) : Result := .next ((softwareInterrupt s).cost 7)

end Sys2Proof.Machine
end

