-- ==== Sys2Proof/Machine/LoadStore.lean ====
section
/-! DEFINITION. Load and store instructions (40_load_store.md R150 to R155). -/

namespace Sys2Proof.Machine

/-- `A <- m; SetZN(A)` (R150). -/
def loadA (m : Byte) (s : State) : State := (s.setA m).setZN m

/-- `X <- m; SetZN(X)` (R151). -/
def loadX (m : Byte) (s : State) : State := (s.setX m).setZN m

/-- `Y <- m; SetZN(Y)` (R152). -/
def loadY (m : Byte) (s : State) : State := (s.setY m).setZN m

/-- LDA immediate (0xA9, R150). -/
def execLdaImm (d : Byte) (s : State) : Result := readingInstr (.imm d) 2 loadA s

/-- LDA zero page (0xA5, R150). -/
def execLdaZp (d : Byte) (s : State) : Result := readingInstr (.zp d) 3 loadA s

/-- LDA zero page,X (0xB5, R150). -/
def execLdaZpX (d : Byte) (s : State) : Result := readingInstr (.zpX d) 4 loadA s

/-- LDA absolute (0xAD, R150). -/
def execLdaAbs (a : Addr) (s : State) : Result := readingInstr (.abs a) 4 loadA s

/-- LDA absolute,X (0xBD, R150). -/
def execLdaAbsX (a : Addr) (s : State) : Result := readingInstr (.absX a) 4 loadA s

/-- LDA absolute,Y (0xB9, R150). -/
def execLdaAbsY (a : Addr) (s : State) : Result := readingInstr (.absY a) 4 loadA s

/-- LDA (indirect,X) (0xA1, R150). -/
def execLdaIndX (d : Byte) (s : State) : Result := readingInstr (.indX d) 6 loadA s

/-- LDA (indirect),Y (0xB1, R150). -/
def execLdaIndY (d : Byte) (s : State) : Result := readingInstr (.indY d) 5 loadA s

/-- LDX immediate (0xA2, R151). -/
def execLdxImm (d : Byte) (s : State) : Result := readingInstr (.imm d) 2 loadX s

/-- LDX zero page (0xA6, R151). -/
def execLdxZp (d : Byte) (s : State) : Result := readingInstr (.zp d) 3 loadX s

/-- LDX zero page,Y (0xB6, R151). -/
def execLdxZpY (d : Byte) (s : State) : Result := readingInstr (.zpY d) 4 loadX s

/-- LDX absolute (0xAE, R151). -/
def execLdxAbs (a : Addr) (s : State) : Result := readingInstr (.abs a) 4 loadX s

/-- LDX absolute,Y (0xBE, R151). -/
def execLdxAbsY (a : Addr) (s : State) : Result := readingInstr (.absY a) 4 loadX s

/-- LDY immediate (0xA0, R152). -/
def execLdyImm (d : Byte) (s : State) : Result := readingInstr (.imm d) 2 loadY s

/-- LDY zero page (0xA4, R152). -/
def execLdyZp (d : Byte) (s : State) : Result := readingInstr (.zp d) 3 loadY s

/-- LDY zero page,X (0xB4, R152). -/
def execLdyZpX (d : Byte) (s : State) : Result := readingInstr (.zpX d) 4 loadY s

/-- LDY absolute (0xAC, R152). -/
def execLdyAbs (a : Addr) (s : State) : Result := readingInstr (.abs a) 4 loadY s

/-- LDY absolute,X (0xBC, R152). -/
def execLdyAbsX (a : Addr) (s : State) : Result := readingInstr (.absX a) 4 loadY s

/-- STA zero page (0x85, R153). -/
def execStaZp (d : Byte) (s : State) : Result := storingInstr (.zp d) 3 s.cpu.a s

/-- STA zero page,X (0x95, R153). -/
def execStaZpX (d : Byte) (s : State) : Result := storingInstr (.zpX d) 4 s.cpu.a s

/-- STA absolute (0x8D, R153). -/
def execStaAbs (a : Addr) (s : State) : Result := storingInstr (.abs a) 4 s.cpu.a s

/-- STA absolute,X (0x9D, R153). -/
def execStaAbsX (a : Addr) (s : State) : Result := storingInstr (.absX a) 5 s.cpu.a s

/-- STA absolute,Y (0x99, R153). -/
def execStaAbsY (a : Addr) (s : State) : Result := storingInstr (.absY a) 5 s.cpu.a s

/-- STA (indirect,X) (0x81, R153). -/
def execStaIndX (d : Byte) (s : State) : Result := storingInstr (.indX d) 6 s.cpu.a s

/-- STA (indirect),Y (0x91, R153). -/
def execStaIndY (d : Byte) (s : State) : Result := storingInstr (.indY d) 6 s.cpu.a s

/-- STX zero page (0x86, R154). -/
def execStxZp (d : Byte) (s : State) : Result := storingInstr (.zp d) 3 s.cpu.x s

/-- STX zero page,Y (0x96, R154). -/
def execStxZpY (d : Byte) (s : State) : Result := storingInstr (.zpY d) 4 s.cpu.x s

/-- STX absolute (0x8E, R154). -/
def execStxAbs (a : Addr) (s : State) : Result := storingInstr (.abs a) 4 s.cpu.x s

/-- STY zero page (0x84, R155). -/
def execStyZp (d : Byte) (s : State) : Result := storingInstr (.zp d) 3 s.cpu.y s

/-- STY zero page,X (0x94, R155). -/
def execStyZpX (d : Byte) (s : State) : Result := storingInstr (.zpX d) 4 s.cpu.y s

/-- STY absolute (0x8C, R155). -/
def execStyAbs (a : Addr) (s : State) : Result := storingInstr (.abs a) 4 s.cpu.y s

end Sys2Proof.Machine
end

