-- ==== Sys2Proof/Machine/Logical.lean ====
section
/-! DEFINITION. Logical instructions (44_logical.md R190 to R193). -/

namespace Sys2Proof.Machine

/-- `A <- A & m; SetZN(A)` (R190). -/
def andA (m : Byte) (s : State) : State := loadA (s.cpu.a &&& m) s

/-- `A <- A | m; SetZN(A)` (R191). -/
def oraA (m : Byte) (s : State) : State := loadA (s.cpu.a ||| m) s

/-- `A <- A ^ m; SetZN(A)` (R192). -/
def eorA (m : Byte) (s : State) : State := loadA (s.cpu.a ^^^ m) s

/-- Bit test (R193): only Z, N and V are written. -/
def bitA (m : Byte) (s : State) : State := s.setP (bitFlags s.cpu.a m s.cpu.p)

/-- AND immediate (0x29, R190). -/
def execAndImm (d : Byte) (s : State) : Result := readingInstr (.imm d) 2 andA s

/-- AND zero page (0x25, R190). -/
def execAndZp (d : Byte) (s : State) : Result := readingInstr (.zp d) 3 andA s

/-- AND zero page,X (0x35, R190). -/
def execAndZpX (d : Byte) (s : State) : Result := readingInstr (.zpX d) 4 andA s

/-- AND absolute (0x2D, R190). -/
def execAndAbs (a : Addr) (s : State) : Result := readingInstr (.abs a) 4 andA s

/-- AND absolute,X (0x3D, R190). -/
def execAndAbsX (a : Addr) (s : State) : Result := readingInstr (.absX a) 4 andA s

/-- AND absolute,Y (0x39, R190). -/
def execAndAbsY (a : Addr) (s : State) : Result := readingInstr (.absY a) 4 andA s

/-- AND (indirect,X) (0x21, R190). -/
def execAndIndX (d : Byte) (s : State) : Result := readingInstr (.indX d) 6 andA s

/-- AND (indirect),Y (0x31, R190). -/
def execAndIndY (d : Byte) (s : State) : Result := readingInstr (.indY d) 5 andA s

/-- ORA immediate (0x09, R191). -/
def execOraImm (d : Byte) (s : State) : Result := readingInstr (.imm d) 2 oraA s

/-- ORA zero page (0x05, R191). -/
def execOraZp (d : Byte) (s : State) : Result := readingInstr (.zp d) 3 oraA s

/-- ORA zero page,X (0x15, R191). -/
def execOraZpX (d : Byte) (s : State) : Result := readingInstr (.zpX d) 4 oraA s

/-- ORA absolute (0x0D, R191). -/
def execOraAbs (a : Addr) (s : State) : Result := readingInstr (.abs a) 4 oraA s

/-- ORA absolute,X (0x1D, R191). -/
def execOraAbsX (a : Addr) (s : State) : Result := readingInstr (.absX a) 4 oraA s

/-- ORA absolute,Y (0x19, R191). -/
def execOraAbsY (a : Addr) (s : State) : Result := readingInstr (.absY a) 4 oraA s

/-- ORA (indirect,X) (0x01, R191). -/
def execOraIndX (d : Byte) (s : State) : Result := readingInstr (.indX d) 6 oraA s

/-- ORA (indirect),Y (0x11, R191). -/
def execOraIndY (d : Byte) (s : State) : Result := readingInstr (.indY d) 5 oraA s

/-- EOR immediate (0x49, R192). -/
def execEorImm (d : Byte) (s : State) : Result := readingInstr (.imm d) 2 eorA s

/-- EOR zero page (0x45, R192). -/
def execEorZp (d : Byte) (s : State) : Result := readingInstr (.zp d) 3 eorA s

/-- EOR zero page,X (0x55, R192). -/
def execEorZpX (d : Byte) (s : State) : Result := readingInstr (.zpX d) 4 eorA s

/-- EOR absolute (0x4D, R192). -/
def execEorAbs (a : Addr) (s : State) : Result := readingInstr (.abs a) 4 eorA s

/-- EOR absolute,X (0x5D, R192). -/
def execEorAbsX (a : Addr) (s : State) : Result := readingInstr (.absX a) 4 eorA s

/-- EOR absolute,Y (0x59, R192). -/
def execEorAbsY (a : Addr) (s : State) : Result := readingInstr (.absY a) 4 eorA s

/-- EOR (indirect,X) (0x41, R192). -/
def execEorIndX (d : Byte) (s : State) : Result := readingInstr (.indX d) 6 eorA s

/-- EOR (indirect),Y (0x51, R192). -/
def execEorIndY (d : Byte) (s : State) : Result := readingInstr (.indY d) 5 eorA s

/-- BIT zero page (0x24, R193). -/
def execBitZp (d : Byte) (s : State) : Result := readingInstr (.zp d) 3 bitA s

/-- BIT absolute (0x2C, R193). -/
def execBitAbs (a : Addr) (s : State) : Result := readingInstr (.abs a) 4 bitA s

end Sys2Proof.Machine
end

