-- ==== Sys2Proof/Machine/Shift.lean ====
section
/-! DEFINITION. Shifts and rotates (43_shift_rotate.md R180 to R183). -/

namespace Sys2Proof.Machine

/-- ASL accumulator (0x0A, R180). -/
def execAslAcc (s : State) : Result := modifyAccumulator 2 aslByte s

/-- ASL zero page (0x06, R180). -/
def execAslZp (d : Byte) (s : State) : Result := modifyingInstr (.zp d) 5 aslByte s

/-- ASL zero page,X (0x16, R180). -/
def execAslZpX (d : Byte) (s : State) : Result := modifyingInstr (.zpX d) 6 aslByte s

/-- ASL absolute (0x0E, R180). -/
def execAslAbs (a : Addr) (s : State) : Result := modifyingInstr (.abs a) 6 aslByte s

/-- ASL absolute,X (0x1E, R180). -/
def execAslAbsX (a : Addr) (s : State) : Result := modifyingInstr (.absX a) 7 aslByte s

/-- LSR accumulator (0x4A, R181). -/
def execLsrAcc (s : State) : Result := modifyAccumulator 2 lsrByte s

/-- LSR zero page (0x46, R181). -/
def execLsrZp (d : Byte) (s : State) : Result := modifyingInstr (.zp d) 5 lsrByte s

/-- LSR zero page,X (0x56, R181). -/
def execLsrZpX (d : Byte) (s : State) : Result := modifyingInstr (.zpX d) 6 lsrByte s

/-- LSR absolute (0x4E, R181). -/
def execLsrAbs (a : Addr) (s : State) : Result := modifyingInstr (.abs a) 6 lsrByte s

/-- LSR absolute,X (0x5E, R181). -/
def execLsrAbsX (a : Addr) (s : State) : Result := modifyingInstr (.absX a) 7 lsrByte s

/-- ROL accumulator (0x2A, R182). -/
def execRolAcc (s : State) : Result := modifyAccumulator 2 rolByte s

/-- ROL zero page (0x26, R182). -/
def execRolZp (d : Byte) (s : State) : Result := modifyingInstr (.zp d) 5 rolByte s

/-- ROL zero page,X (0x36, R182). -/
def execRolZpX (d : Byte) (s : State) : Result := modifyingInstr (.zpX d) 6 rolByte s

/-- ROL absolute (0x2E, R182). -/
def execRolAbs (a : Addr) (s : State) : Result := modifyingInstr (.abs a) 6 rolByte s

/-- ROL absolute,X (0x3E, R182). -/
def execRolAbsX (a : Addr) (s : State) : Result := modifyingInstr (.absX a) 7 rolByte s

/-- ROR accumulator (0x6A, R183). -/
def execRorAcc (s : State) : Result := modifyAccumulator 2 rorByte s

/-- ROR zero page (0x66, R183). -/
def execRorZp (d : Byte) (s : State) : Result := modifyingInstr (.zp d) 5 rorByte s

/-- ROR zero page,X (0x76, R183). -/
def execRorZpX (d : Byte) (s : State) : Result := modifyingInstr (.zpX d) 6 rorByte s

/-- ROR absolute (0x6E, R183). -/
def execRorAbs (a : Addr) (s : State) : Result := modifyingInstr (.abs a) 6 rorByte s

/-- ROR absolute,X (0x7E, R183). -/
def execRorAbsX (a : Addr) (s : State) : Result := modifyingInstr (.absX a) 7 rorByte s

end Sys2Proof.Machine
end

