-- ==== Sys2Proof/Machine/Stack.lean ====
section
/-! DEFINITION. Stack instructions (48_stack.md R237 to R240). -/

namespace Sys2Proof.Machine

/-- PHA (0x48, R237). -/
def execPha (s : State) : Result := .next ((push s.cpu.a s).cost 3)

/-- PHP (0x08, R238). -/
def execPhp (s : State) : Result := .next ((push (statusPushedByInstruction s.cpu.p) s).cost 3)

/-- PLA (0x68, R239). -/
def execPla (s : State) : Result := .next ((loadA (pull s).1 (pull s).2).cost 4)

/-- PLP (0x28, R240). -/
def execPlp (s : State) : Result := .next (((pull s).2.setP (statusPulled (pull s).1)).cost 4)

end Sys2Proof.Machine
end

