-- ==== Sys2Proof/Machine/Transfer.lean ====
section
/-! DEFINITION. Register transfers (41_transfer.md R160 to R165). TXS alone leaves Z and N. -/

namespace Sys2Proof.Machine

/-- TAX (0xAA, R160). -/
def execTax (s : State) : Result := .next (((s.setX s.cpu.a).setZN s.cpu.a).cost 2)

/-- TAY (0xA8, R161). -/
def execTay (s : State) : Result := .next (((s.setY s.cpu.a).setZN s.cpu.a).cost 2)

/-- TXA (0x8A, R162). -/
def execTxa (s : State) : Result := .next (((s.setA s.cpu.x).setZN s.cpu.x).cost 2)

/-- TYA (0x98, R163). -/
def execTya (s : State) : Result := .next (((s.setA s.cpu.y).setZN s.cpu.y).cost 2)

/-- TSX (0xBA, R164). -/
def execTsx (s : State) : Result := .next (((s.setX s.cpu.sp).setZN s.cpu.sp).cost 2)

/-- TXS (0x9A, R165). -/
def execTxs (s : State) : Result := .next ((s.setSp s.cpu.x).cost 2)

end Sys2Proof.Machine
end

