-- ==== Sys2Proof/Machine/Dispatch.lean ====
section
/-! DEFINITION. The dispatch of an instruction to its meaning: one arm per constructor of Instr. -/

namespace Sys2Proof.Machine

def exec (i : Instr) (s : State) : Host.Outcome State Fault Refusal :=
  match i with
  | .ldaImm d => Sys2Proof.Machine.execLdaImm d s
  | .ldaZp d => Sys2Proof.Machine.execLdaZp d s
  | .ldaZpX d => Sys2Proof.Machine.execLdaZpX d s
  | .ldaAbs a => Sys2Proof.Machine.execLdaAbs a s
  | .ldaAbsX a => Sys2Proof.Machine.execLdaAbsX a s
  | .ldaAbsY a => Sys2Proof.Machine.execLdaAbsY a s
  | .ldaIndX d => Sys2Proof.Machine.execLdaIndX d s
  | .ldaIndY d => Sys2Proof.Machine.execLdaIndY d s
  | .ldxImm d => Sys2Proof.Machine.execLdxImm d s
  | .ldxZp d => Sys2Proof.Machine.execLdxZp d s
  | .ldxZpY d => Sys2Proof.Machine.execLdxZpY d s
  | .ldxAbs a => Sys2Proof.Machine.execLdxAbs a s
  | .ldxAbsY a => Sys2Proof.Machine.execLdxAbsY a s
  | .ldyImm d => Sys2Proof.Machine.execLdyImm d s
  | .ldyZp d => Sys2Proof.Machine.execLdyZp d s
  | .ldyZpX d => Sys2Proof.Machine.execLdyZpX d s
  | .ldyAbs a => Sys2Proof.Machine.execLdyAbs a s
  | .ldyAbsX a => Sys2Proof.Machine.execLdyAbsX a s
  | .staZp d => Sys2Proof.Machine.execStaZp d s
  | .staZpX d => Sys2Proof.Machine.execStaZpX d s
  | .staAbs a => Sys2Proof.Machine.execStaAbs a s
  | .staAbsX a => Sys2Proof.Machine.execStaAbsX a s
  | .staAbsY a => Sys2Proof.Machine.execStaAbsY a s
  | .staIndX d => Sys2Proof.Machine.execStaIndX d s
  | .staIndY d => Sys2Proof.Machine.execStaIndY d s
  | .stxZp d => Sys2Proof.Machine.execStxZp d s
  | .stxZpY d => Sys2Proof.Machine.execStxZpY d s
  | .stxAbs a => Sys2Proof.Machine.execStxAbs a s
  | .styZp d => Sys2Proof.Machine.execStyZp d s
  | .styZpX d => Sys2Proof.Machine.execStyZpX d s
  | .styAbs a => Sys2Proof.Machine.execStyAbs a s
  | .tax => Sys2Proof.Machine.execTax s
  | .tay => Sys2Proof.Machine.execTay s
  | .txa => Sys2Proof.Machine.execTxa s
  | .tya => Sys2Proof.Machine.execTya s
  | .tsx => Sys2Proof.Machine.execTsx s
  | .txs => Sys2Proof.Machine.execTxs s
  | .incZp d => Sys2Proof.Machine.execIncZp d s
  | .incZpX d => Sys2Proof.Machine.execIncZpX d s
  | .incAbs a => Sys2Proof.Machine.execIncAbs a s
  | .incAbsX a => Sys2Proof.Machine.execIncAbsX a s
  | .decZp d => Sys2Proof.Machine.execDecZp d s
  | .decZpX d => Sys2Proof.Machine.execDecZpX d s
  | .decAbs a => Sys2Proof.Machine.execDecAbs a s
  | .decAbsX a => Sys2Proof.Machine.execDecAbsX a s
  | .inx => Sys2Proof.Machine.execInx s
  | .iny => Sys2Proof.Machine.execIny s
  | .dex => Sys2Proof.Machine.execDex s
  | .dey => Sys2Proof.Machine.execDey s
  | .aslAcc => Sys2Proof.Machine.execAslAcc s
  | .aslZp d => Sys2Proof.Machine.execAslZp d s
  | .aslZpX d => Sys2Proof.Machine.execAslZpX d s
  | .aslAbs a => Sys2Proof.Machine.execAslAbs a s
  | .aslAbsX a => Sys2Proof.Machine.execAslAbsX a s
  | .lsrAcc => Sys2Proof.Machine.execLsrAcc s
  | .lsrZp d => Sys2Proof.Machine.execLsrZp d s
  | .lsrZpX d => Sys2Proof.Machine.execLsrZpX d s
  | .lsrAbs a => Sys2Proof.Machine.execLsrAbs a s
  | .lsrAbsX a => Sys2Proof.Machine.execLsrAbsX a s
  | .rolAcc => Sys2Proof.Machine.execRolAcc s
  | .rolZp d => Sys2Proof.Machine.execRolZp d s
  | .rolZpX d => Sys2Proof.Machine.execRolZpX d s
  | .rolAbs a => Sys2Proof.Machine.execRolAbs a s
  | .rolAbsX a => Sys2Proof.Machine.execRolAbsX a s
  | .rorAcc => Sys2Proof.Machine.execRorAcc s
  | .rorZp d => Sys2Proof.Machine.execRorZp d s
  | .rorZpX d => Sys2Proof.Machine.execRorZpX d s
  | .rorAbs a => Sys2Proof.Machine.execRorAbs a s
  | .rorAbsX a => Sys2Proof.Machine.execRorAbsX a s
  | .andImm d => Sys2Proof.Machine.execAndImm d s
  | .andZp d => Sys2Proof.Machine.execAndZp d s
  | .andZpX d => Sys2Proof.Machine.execAndZpX d s
  | .andAbs a => Sys2Proof.Machine.execAndAbs a s
  | .andAbsX a => Sys2Proof.Machine.execAndAbsX a s
  | .andAbsY a => Sys2Proof.Machine.execAndAbsY a s
  | .andIndX d => Sys2Proof.Machine.execAndIndX d s
  | .andIndY d => Sys2Proof.Machine.execAndIndY d s
  | .oraImm d => Sys2Proof.Machine.execOraImm d s
  | .oraZp d => Sys2Proof.Machine.execOraZp d s
  | .oraZpX d => Sys2Proof.Machine.execOraZpX d s
  | .oraAbs a => Sys2Proof.Machine.execOraAbs a s
  | .oraAbsX a => Sys2Proof.Machine.execOraAbsX a s
  | .oraAbsY a => Sys2Proof.Machine.execOraAbsY a s
  | .oraIndX d => Sys2Proof.Machine.execOraIndX d s
  | .oraIndY d => Sys2Proof.Machine.execOraIndY d s
  | .eorImm d => Sys2Proof.Machine.execEorImm d s
  | .eorZp d => Sys2Proof.Machine.execEorZp d s
  | .eorZpX d => Sys2Proof.Machine.execEorZpX d s
  | .eorAbs a => Sys2Proof.Machine.execEorAbs a s
  | .eorAbsX a => Sys2Proof.Machine.execEorAbsX a s
  | .eorAbsY a => Sys2Proof.Machine.execEorAbsY a s
  | .eorIndX d => Sys2Proof.Machine.execEorIndX d s
  | .eorIndY d => Sys2Proof.Machine.execEorIndY d s
  | .bitZp d => Sys2Proof.Machine.execBitZp d s
  | .bitAbs a => Sys2Proof.Machine.execBitAbs a s
  | .cmpImm d => Sys2Proof.Machine.execCmpImm d s
  | .cmpZp d => Sys2Proof.Machine.execCmpZp d s
  | .cmpZpX d => Sys2Proof.Machine.execCmpZpX d s
  | .cmpAbs a => Sys2Proof.Machine.execCmpAbs a s
  | .cmpAbsX a => Sys2Proof.Machine.execCmpAbsX a s
  | .cmpAbsY a => Sys2Proof.Machine.execCmpAbsY a s
  | .cmpIndX d => Sys2Proof.Machine.execCmpIndX d s
  | .cmpIndY d => Sys2Proof.Machine.execCmpIndY d s
  | .cpxImm d => Sys2Proof.Machine.execCpxImm d s
  | .cpxZp d => Sys2Proof.Machine.execCpxZp d s
  | .cpxAbs a => Sys2Proof.Machine.execCpxAbs a s
  | .cpyImm d => Sys2Proof.Machine.execCpyImm d s
  | .cpyZp d => Sys2Proof.Machine.execCpyZp d s
  | .cpyAbs a => Sys2Proof.Machine.execCpyAbs a s
  | .adcImm d => Sys2Proof.Machine.execAdcImm d s
  | .adcZp d => Sys2Proof.Machine.execAdcZp d s
  | .adcZpX d => Sys2Proof.Machine.execAdcZpX d s
  | .adcAbs a => Sys2Proof.Machine.execAdcAbs a s
  | .adcAbsX a => Sys2Proof.Machine.execAdcAbsX a s
  | .adcAbsY a => Sys2Proof.Machine.execAdcAbsY a s
  | .adcIndX d => Sys2Proof.Machine.execAdcIndX d s
  | .adcIndY d => Sys2Proof.Machine.execAdcIndY d s
  | .sbcImm d => Sys2Proof.Machine.execSbcImm d s
  | .sbcZp d => Sys2Proof.Machine.execSbcZp d s
  | .sbcZpX d => Sys2Proof.Machine.execSbcZpX d s
  | .sbcAbs a => Sys2Proof.Machine.execSbcAbs a s
  | .sbcAbsX a => Sys2Proof.Machine.execSbcAbsX a s
  | .sbcAbsY a => Sys2Proof.Machine.execSbcAbsY a s
  | .sbcIndX d => Sys2Proof.Machine.execSbcIndX d s
  | .sbcIndY d => Sys2Proof.Machine.execSbcIndY d s
  | .bcc off => Sys2Proof.Machine.execBcc off s
  | .bcs off => Sys2Proof.Machine.execBcs off s
  | .beq off => Sys2Proof.Machine.execBeq off s
  | .bne off => Sys2Proof.Machine.execBne off s
  | .bmi off => Sys2Proof.Machine.execBmi off s
  | .bpl off => Sys2Proof.Machine.execBpl off s
  | .bvc off => Sys2Proof.Machine.execBvc off s
  | .bvs off => Sys2Proof.Machine.execBvs off s
  | .pha => Sys2Proof.Machine.execPha s
  | .php => Sys2Proof.Machine.execPhp s
  | .pla => Sys2Proof.Machine.execPla s
  | .plp => Sys2Proof.Machine.execPlp s
  | .jmpAbs a => Sys2Proof.Machine.execJmpAbs a s
  | .jmpInd ptr => Sys2Proof.Machine.execJmpInd ptr s
  | .jsr a => Sys2Proof.Machine.execJsr a s
  | .rts => Sys2Proof.Machine.execRts s
  | .rti => Sys2Proof.Machine.execRti s
  | .brk => Sys2Proof.Machine.execBrk s
  | .clc => Sys2Proof.Machine.execClc s
  | .sec => Sys2Proof.Machine.execSec s
  | .cli => Sys2Proof.Machine.execCli s
  | .sei => Sys2Proof.Machine.execSei s
  | .cld => Sys2Proof.Machine.execCld s
  | .sed => Sys2Proof.Machine.execSed s
  | .clv => Sys2Proof.Machine.execClv s
  | .nop => Sys2Proof.Machine.execNop s
  | .und op => Sys2Proof.Machine.execUnd op s

end Sys2Proof.Machine
end

