-- ==== Sys2Proof/Machine/Dma.lean ====
section
/-! DEFINITION. The OAM-DMA controller (55_system_clock_dma.md R380 to R387). -/

namespace Sys2Proof.Machine

/-- The parity of a CPU slot, the low bit of the slot number since Reset (R381): true when odd. -/
def State.oddSlot (s : State) : Bool := decide (s.master / 3 % 2 = 1)

/-- `DmaRead()` (R382): an ordinary bus read at `page:cursor` (R85). -/
def dmaRead (s : State) : State :=
  let r := memRead (addrOf s.dma.cursor s.dma.page) s
  { r.2 with dma := { r.2.dma with data := r.1, state := .write } }

/-- `DmaWrite()` (R383): the byte to `oam[dma_cursor]`; the transfer ends when the cursor wraps. -/
def dmaWrite (s : State) : State :=
  let next := s.dma.cursor + 1#8
  { s with
    ppu := { s.ppu with oam := Memory.write s.ppu.oam s.dma.cursor.toNat s.dma.data }
    dma := { s.dma with cursor := next, state := if next = 0#8 then .idle else .read } }

/-- `DmaStep()` (R382): the alignment cycle in an odd first slot, then reads and writes in alternation. -/
def dmaStep (s : State) : State :=
  match s.dma.state with
  | .idle => s
  | .sync => if s.oddSlot then { s with dma := { s.dma with state := .read } } else dmaRead s
  | .read => dmaRead s
  | .write => dmaWrite s

end Sys2Proof.Machine
end

