-- ==== Sys2Proof/Machine/Fetch.lean ====
section
/-! DEFINITION. Fetching an instruction (30_encoding.md R123), and placing a program's bytes where they are fetched. -/

namespace Sys2Proof.Machine

/-- Read the byte at PC and advance PC modulo 65536 (R123). -/
def fetchByte (s : State) : Byte × State :=
  let r := memRead s.cpu.pc s
  (r.1, r.2.setPc (r.2.cpu.pc + 1#16))

/-- Read so many bytes at PC, in ascending order (R71, R123). -/
def fetchBytes : Nat → State → List Byte × State
  | 0, s => ([], s)
  | n + 1, s =>
    let b := fetchByte s
    let rest := fetchBytes n b.2
    (b.1 :: rest.1, rest.2)

/-- Fetch the opcode byte, then the operand bytes its format calls for, and decode (R120, R122, R123). -/
def fetchInstr (s : State) : Instr × State :=
  let op := fetchByte s
  match opcodeFormat op.1 with
  | .f1 i => (i, op.2)
  | .f2 mk =>
    let d := fetchByte op.2
    (mk d.1, d.2)
  | .f3 mk =>
    let lo := fetchByte op.2
    let hi := fetchByte lo.2
    (mk (addrOf lo.1 hi.1), hi.2)

/-- Put a byte where a bus read of an address finds it, in PRG or in RAM: what a program loader does, not a bus write. -/
def pokeCode (a : Addr) (b : Byte) (s : State) : State :=
  match s.cart with
  | some c =>
    match nromCpu c.prgBanks a with
    | some off => { s with cart := some { c with prg := Memory.write c.prg off b } }
    | none => { s with ram := Memory.write s.ram (a.toNat % 0x0800) b }
  | none => { s with ram := Memory.write s.ram (a.toNat % 0x0800) b }

/-- Whether an address is backed by PRG or RAM. -/
def holdsCode (a : Addr) (s : State) : Bool := (cartCpuRead s.cart a).isSome || decide (a.toNat ≤ 0x1FFF)

/-- Place three bytes at PC; if one of the three addresses is no memory (a device or unclaimed), PC is first moved to
0x0200 in RAM (log entry 1). -/
def placeCode (b0 b1 b2 : Byte) (s : State) : State :=
  let here := holdsCode s.cpu.pc s && holdsCode (s.cpu.pc + 1#16) s && holdsCode (s.cpu.pc + 2#16) s
  let s1 := if here then s else s.setPc 0x0200#16
  let pc := s1.cpu.pc
  pokeCode (pc + 2#16) b2 (pokeCode (pc + 1#16) b1 (pokeCode pc b0 s1))

/-- Make the next `System.Clock` one that fetches an instruction: a CPU slot, no transfer armed, no cycles owed
(55_system_clock_dma.md R371, R375). -/
def readyToFetch (s : State) : State :=
  { s with
    cpu := { s.cpu with debt := 0 }
    dma := { s.dma with state := .idle }
    master := s.master - s.master % 3 }

end Sys2Proof.Machine
end

