-- ==== Sys2Proof/Machine/Ppu.lean ====
section
/-! DEFINITION. The PPU's rendering pipeline and its scanline/dot state machine (51_ppu_rendering.md R310 to R352). -/

namespace Sys2Proof.Machine

/-! ## Register fields the pipeline reads (50_ppu_registers.md R271, R276) -/

/-- `ctrl.pattern_sprite`. -/
def Ppu.patternSprite (u : Ppu) : Nat := (u.ctrl.getLsbD 3).toNat

/-- `ctrl.pattern_background`. -/
def Ppu.patternBackground (u : Ppu) : Nat := (u.ctrl.getLsbD 4).toNat

/-- Sprite height, 8 or 16, from `ctrl.sprite_size`. -/
def Ppu.spriteHeight (u : Ppu) : Nat := if u.ctrl.getLsbD 5 then 16 else 8

/-- `ctrl.enable_nmi`. -/
def Ppu.enableNmi (u : Ppu) : Bool := u.ctrl.getLsbD 7

/-- `mask.show_bg_left`. -/
def Ppu.showBgLeft (u : Ppu) : Bool := u.mask.getLsbD 1

/-- `mask.show_sprites_left`. -/
def Ppu.showSpritesLeft (u : Ppu) : Bool := u.mask.getLsbD 2

/-- `mask.show_bg`. -/
def Ppu.showBg (u : Ppu) : Bool := u.mask.getLsbD 3

/-- `mask.show_sprites`. -/
def Ppu.showSprites (u : Ppu) : Bool := u.mask.getLsbD 4

/-- `rendering` (R312). -/
def Ppu.rendering (u : Ppu) : Bool := u.showBg || u.showSprites

/-- `bgline` (R313). -/
def Ppu.bgLine (u : Ppu) : Bool := decide (-1 ≤ u.scanline) && decide (u.scanline ≤ 239)

/-- `visible` (R313). -/
def Ppu.visible (u : Ppu) : Bool := decide (0 ≤ u.scanline) && decide (u.scanline ≤ 239)

/-- `fetchdot` (R313). -/
def Ppu.fetchDot (u : Ppu) : Bool :=
  (decide (2 ≤ u.dot) && decide (u.dot ≤ 257)) || (decide (321 ≤ u.dot) && decide (u.dot ≤ 337))

/-! ## Flags at fixed dots -/

/-- Prerender scanline, dot 1 (R314): the three flags and the sprite shifters are cleared. -/
def Ppu.clearFlags (u : Ppu) : Ppu :=
  { u with
    verticalBlank := false
    spriteOverflow := false
    spriteZeroHit := false
    sprLo := Vector.replicate 8 0#8
    sprHi := Vector.replicate 8 0#8 }

/-! ## Background pipeline -/

/-- Background shift (R320), only when `mask.show_bg`. -/
def Ppu.shiftBackground (u : Ppu) : Ppu :=
  if u.showBg then
    { u with bgLo := u.bgLo <<< 1, bgHi := u.bgHi <<< 1, atLo := u.atLo <<< 1, atHi := u.atHi <<< 1 }
  else u

/-- Sprite shift (R321), on dots 2 to 257 when `mask.show_sprites`: each valid slot counts its X down, or shifts when it has
reached zero. -/
def Ppu.shiftSprites (u : Ppu) : Ppu :=
  if u.showSprites && decide (2 ≤ u.dot) && decide (u.dot ≤ 257) then
    { u with
      sprX := Vector.ofFn fun i => if i.val < u.spriteCount ∧ u.sprX[i] ≠ 0#8 then u.sprX[i] - 1#8 else u.sprX[i]
      sprLo := Vector.ofFn fun i => if i.val < u.spriteCount ∧ u.sprX[i] = 0#8 then u.sprLo[i] <<< 1 else u.sprLo[i]
      sprHi := Vector.ofFn fun i => if i.val < u.spriteCount ∧ u.sprX[i] = 0#8 then u.sprHi[i] <<< 1 else u.sprHi[i] }
  else u

/-- Load the low halves of the background shifters from the latches (R323). -/
def Ppu.loadShifters (u : Ppu) : Ppu :=
  { u with
    bgLo := (u.bgLo &&& 0xFF00#16) ||| u.nxLo.setWidth 16
    bgHi := (u.bgHi &&& 0xFF00#16) ||| u.nxHi.setWidth 16
    atLo := (u.atLo &&& 0xFF00#16) ||| (if u.nxAt.getLsbD 0 then 0x00FF#16 else 0x0000#16)
    atHi := (u.atHi &&& 0xFF00#16) ||| (if u.nxAt.getLsbD 1 then 0x00FF#16 else 0x0000#16) }

/-- The address of the nametable byte: `0x2000 | (v & 0x0FFF)` (R324). -/
def Ppu.nametableAddr (u : Ppu) : Addr := 0x2000#16 ||| (u.v.setWidth 16 &&& 0x0FFF#16)

/-- The address of the attribute byte (R324). -/
def Ppu.attributeAddr (u : Ppu) : Addr :=
  0x23C0#16 ||| (BitVec.ofNat 16 (loopyGet .nametableY u.v) <<< 11) |||
    (BitVec.ofNat 16 (loopyGet .nametableX u.v) <<< 10) ||| (BitVec.ofNat 16 (loopyGet .coarseY u.v >>> 2) <<< 3) |||
    BitVec.ofNat 16 (loopyGet .coarseX u.v >>> 2)

/-- The 2-bit quadrant of an attribute byte that bit 1 of each coarse coordinate selects (R324). -/
def attributeQuadrant (v : LoopyReg) (a : Byte) : BitVec 2 :=
  let a1 := if (loopyGet .coarseY v).testBit 1 then a >>> 4 else a
  let a2 := if (loopyGet .coarseX v).testBit 1 then a1 >>> 2 else a1
  a2.extractLsb' 0 2

/-- The address of a background pattern row, low plane at `plane` 0 and high plane at `plane` 8 (R325). -/
def Ppu.patternAddr (u : Ppu) (plane : Nat) : Addr :=
  BitVec.ofNat 16 ((u.patternBackground <<< 12) + (u.nxId.toNat <<< 4) + loopyGet .fineY u.v + plane)

/-- Nametable fetch (R324). -/
def Ppu.fetchNametable (cart : Option Cartridge) (u : Ppu) : Ppu := { u with nxId := ppuRead cart u u.nametableAddr }

/-- Attribute fetch (R324). -/
def Ppu.fetchAttribute (cart : Option Cartridge) (u : Ppu) : Ppu :=
  { u with nxAt := attributeQuadrant u.v (ppuRead cart u u.attributeAddr) }

/-- Low-plane fetch (R325). -/
def Ppu.fetchLow (cart : Option Cartridge) (u : Ppu) : Ppu := { u with nxLo := ppuRead cart u (u.patternAddr 0) }

/-- High-plane fetch (R325). -/
def Ppu.fetchHigh (cart : Option Cartridge) (u : Ppu) : Ppu := { u with nxHi := ppuRead cart u (u.patternAddr 8) }

/-- Horizontal increment of a loopy register (R326). -/
def nextCoarseX (v : LoopyReg) : LoopyReg :=
  if loopyGet .coarseX v = 31 then loopySet .nametableX (loopyGet .nametableX v ^^^ 1) (loopySet .coarseX 0 v)
  else loopySet .coarseX (loopyGet .coarseX v + 1) v

/-- Vertical increment of a loopy register (R327). -/
def nextFineY (v : LoopyReg) : LoopyReg :=
  if loopyGet .fineY v < 7 then loopySet .fineY (loopyGet .fineY v + 1) v
  else
    let v0 := loopySet .fineY 0 v
    if loopyGet .coarseY v = 29 then loopySet .nametableY (loopyGet .nametableY v ^^^ 1) (loopySet .coarseY 0 v0)
    else if loopyGet .coarseY v = 31 then loopySet .coarseY 0 v0
    else loopySet .coarseY (loopyGet .coarseY v + 1) v0

/-- Increment horizontal scroll, when `rendering` (R326). -/
def Ppu.incrementX (u : Ppu) : Ppu := if u.rendering then { u with v := nextCoarseX u.v } else u

/-- Increment vertical scroll, when `rendering` (R327). -/
def Ppu.incrementY (u : Ppu) : Ppu := if u.rendering then { u with v := nextFineY u.v } else u

/-- Copy the horizontal scroll fields of `t` to `v`, when `rendering` (R328). -/
def Ppu.copyX (u : Ppu) : Ppu :=
  if u.rendering then { u with v := loopyCopy .nametableX u.t (loopyCopy .coarseX u.t u.v) } else u

/-- Copy the vertical scroll fields of `t` to `v`, when `rendering` (R329). -/
def Ppu.copyY (u : Ppu) : Ppu :=
  if u.rendering then
    { u with v := loopyCopy .nametableY u.t (loopyCopy .coarseY u.t (loopyCopy .fineY u.t u.v)) }
  else u

/-- The work of the tile-fetch phase `(dot - 1) mod 8` (R322). -/
def Ppu.tilePhase (cart : Option Cartridge) (u : Ppu) : Ppu :=
  match (u.dot - 1) % 8 with
  | 0 => (u.loadShifters).fetchNametable cart
  | 2 => u.fetchAttribute cart
  | 4 => u.fetchLow cart
  | 6 => u.fetchHigh cart
  | 7 => u.incrementX
  | _ => u

/-! ## Sprite pipeline -/

/-- Byte `k` of primary OAM (R32). -/
def Ppu.oamByte (u : Ppu) (k : Nat) : Byte := Memory.read u.oam k

/-- Sprite `n` of primary OAM (R32). -/
def Ppu.oamRecord (u : Ppu) (n : Nat) : OamRecord :=
  { y := u.oamByte (4 * n), id := u.oamByte (4 * n + 1), attr := u.oamByte (4 * n + 2), x := u.oamByte (4 * n + 3) }

/-- `0 <= diff and diff < h` for sprite `n` (R340). -/
def Ppu.spriteInRange (u : Ppu) (n : Nat) : Bool :=
  let diff := u.scanline - ((u.oamByte (4 * n)).toNat : Int)
  decide (0 ≤ diff) && decide (diff < (u.spriteHeight : Int))

/-- The sprites the evaluation loop of R340 matches, in index order: it stops at the ninth match. -/
def Ppu.spriteMatches (u : Ppu) : List Nat := ((List.range 64).filter u.spriteInRange).take 9

/-- Sprite evaluation (R340, R341): the first eight matches fill secondary OAM, the rest of it 0xFF; a ninth sets
`sprite_overflow`; `zero_possible` is whether sprite 0 matched. -/
def Ppu.evaluateSprites (u : Ppu) : Ppu :=
  let found := u.spriteMatches
  { u with
    secOam := Vector.ofFn fun i : Fin 8 =>
      match found[i.val]? with
      | some n => u.oamRecord n
      | none => ⟨0xFF#8, 0xFF#8, 0xFF#8, 0xFF#8⟩
    spriteCount := min found.length 8
    zeroPossible := found.contains 0
    spriteOverflow := u.spriteOverflow || decide (found.length = 9) }

/-- `Reverse8(b)` (R344): bit `k` of the result is bit `7 - k` of `b`. -/
def reverse8 (b : Byte) : Byte := b.reverse

/-- `SpriteRowAddr(y, id, attr)` (R343), on integers: `row` can leave 0 to `h - 1` only if `ctrl.sprite_size` changed since
the evaluation (log entry 13). -/
def Ppu.spriteRowAddr (u : Ppu) (r : OamRecord) : Addr :=
  let h : Int := u.spriteHeight
  let row0 : Int := u.scanline - (r.y.toNat : Int)
  let row : Int := if r.attr.getLsbD 7 then (h - 1) - row0 else row0
  let table : Nat := if h = 8 then u.patternSprite else (r.id.getLsbD 0).toNat
  let tile : Int := if h = 8 then (r.id.toNat : Int) else ((r.id &&& 0xFE#8).toNat : Int) + row / 8
  (BitVec.ofNat 16 table <<< 12) ||| (BitVec.ofInt 16 tile <<< 4) ||| BitVec.ofInt 16 (row % 8)

/-- One plane of a sprite row, reversed when `attr[6]` (R342). -/
def Ppu.spritePlane (cart : Option Cartridge) (u : Ppu) (r : OamRecord) (plane : Addr) : Byte :=
  let b := ppuRead cart u (u.spriteRowAddr r + plane)
  if r.attr.getLsbD 6 then reverse8 b else b

/-- Sprite pattern load (R342) for the valid slots; the others are left unchanged. -/
def Ppu.loadSprites (cart : Option Cartridge) (u : Ppu) : Ppu :=
  { u with
    sprLo := Vector.ofFn fun i => if i.val < u.spriteCount then u.spritePlane cart u.secOam[i] 0#16 else u.sprLo[i]
    sprHi := Vector.ofFn fun i => if i.val < u.spriteCount then u.spritePlane cart u.secOam[i] 8#16 else u.sprHi[i]
    sprX := Vector.ofFn fun i => if i.val < u.spriteCount then u.secOam[i].x else u.sprX[i] }

/-! ## The per-dot work -/

/-- Line a of R313. -/
def Ppu.lineA (u : Ppu) : Ppu := if u.scanline = -1 ∧ u.dot = 1 then u.clearFlags else u

/-- Line b of R313: shift, then the phase work. -/
def Ppu.lineB (cart : Option Cartridge) (u : Ppu) : Ppu :=
  if u.bgLine && u.fetchDot then (u.shiftBackground.shiftSprites).tilePhase cart else u

/-- Line c of R313. -/
def Ppu.lineC (u : Ppu) : Ppu := if u.bgLine && decide (u.dot = 256) then u.incrementY else u

/-- Line d of R313. -/
def Ppu.lineD (u : Ppu) : Ppu := if u.bgLine && decide (u.dot = 257) then u.loadShifters.copyX else u

/-- Line e of R313. -/
def Ppu.lineE (u : Ppu) : Ppu := if u.scanline = -1 ∧ 280 ≤ u.dot ∧ u.dot ≤ 304 then u.copyY else u

/-- Line f of R313. -/
def Ppu.lineF (u : Ppu) : Ppu := if u.visible && decide (u.dot = 257) then u.evaluateSprites else u

/-- Line g of R313. -/
def Ppu.lineG (cart : Option Cartridge) (u : Ppu) : Ppu :=
  if u.visible && decide (u.dot = 340) then u.loadSprites cart else u

/-- Scanline 241, dot 1: where vertical blank begins (R316). -/
def Ppu.atVerticalBlank (u : Ppu) : Bool := decide (u.scanline = 241) && decide (u.dot = 1)

/-- Line h of R313, less the arming of the NMI: `vertical_blank` is set (R316). -/
def Ppu.lineH (u : Ppu) : Ppu := if u.atVerticalBlank then { u with verticalBlank := true } else u

/-- The per-dot work, in the order of R313. -/
def Ppu.dotWork (cart : Option Cartridge) (u : Ppu) : Ppu :=
  (((u.lineA.lineB cart).lineC.lineD.lineE.lineF).lineG cart).lineH

/-! ## Pixel composition -/

/-- A background pixel: its 2-bit value and its palette (R347). -/
structure BackgroundPixel where
  px : BitVec 2
  pal : BitVec 3
deriving DecidableEq, Repr

/-- A sprite pixel: value, palette 4 to 7, whether it is in front, and the slot it comes from (R348). -/
structure SpritePixel where
  px : BitVec 2
  pal : BitVec 3
  front : Bool
  slot : Option (Fin 8)
deriving DecidableEq, Repr

/-- Two bits, the second the lower one. -/
def twoBits (hi lo : Bool) : BitVec 2 := BitVec.ofBool hi ++ BitVec.ofBool lo

/-- The background pixel (R347). -/
def Ppu.backgroundPixel (u : Ppu) : BackgroundPixel :=
  if u.showBg && (u.showBgLeft || decide (9 ≤ u.dot)) then
    let b := 15 - u.fineX.toNat
    { px := twoBits (u.bgHi.getLsbD b) (u.bgLo.getLsbD b)
      pal := (twoBits (u.atHi.getLsbD b) (u.atLo.getLsbD b)).setWidth 3 }
  else { px := 0#2, pal := 0#3 }

/-- The pixel the shifters of a slot show (R348). -/
def Ppu.slotPixel (u : Ppu) (i : Fin 8) : BitVec 2 := twoBits u.sprHi[i].msb u.sprLo[i].msb

/-- Whether a slot is valid, its X counter has reached zero, and its pixel is opaque (R348). -/
def Ppu.slotShows (u : Ppu) (i : Fin 8) : Bool :=
  decide (i.val < u.spriteCount) && u.sprX[i] == 0#8 && u.slotPixel i != 0#2

/-- The eight slots in index order. -/
def spriteSlots : List (Fin 8) := [0, 1, 2, 3, 4, 5, 6, 7]

/-- The sprite pixel (R348): the lowest slot that shows an opaque pixel. -/
def Ppu.spritePixel (u : Ppu) : SpritePixel :=
  let none := { px := 0#2, pal := 0#3, front := false, slot := Option.none }
  if u.showSprites && (u.showSpritesLeft || decide (9 ≤ u.dot)) then
    match spriteSlots.find? u.slotShows with
    | some i =>
      { px := u.slotPixel i
        pal := (u.secOam[i].attr.extractLsb' 0 2).setWidth 3 + 4#3
        front := !u.secOam[i].attr.getLsbD 5
        slot := some i }
    | .none => none
  else none

/-- The pixel value and palette that priority resolves to (R349). -/
def resolvePriority (bg : BackgroundPixel) (fg : SpritePixel) : BackgroundPixel :=
  if fg.px = 0#2 then (if bg.px = 0#2 then { px := 0#2, pal := 0#3 } else bg)
  else if bg.px = 0#2 then { px := fg.px, pal := fg.pal }
  else if fg.front then { px := fg.px, pal := fg.pal }
  else bg

/-- The palette-RAM address of a resolved pixel: `0x3F00 + (pal << 2) + px` (R350). -/
def pixelAddr (r : BackgroundPixel) : Addr := BitVec.ofNat 16 (0x3F00 + (r.pal.toNat <<< 2) + r.px.toNat)

/-- The palette index a resolved pixel looks up, already masked to 6 bits (R350). -/
def Ppu.colourIndex (cart : Option Cartridge) (u : Ppu) (r : BackgroundPixel) : BitVec 6 :=
  (ppuRead cart u (pixelAddr r)).setWidth 6

/-- The condition of the sprite-zero hit (R351). -/
def Ppu.zeroHit (u : Ppu) (bg : BackgroundPixel) (fg : SpritePixel) : Bool :=
  bg.px != 0#2 && fg.px != 0#2 && fg.slot == some 0 && u.zeroPossible && u.showBg && u.showSprites &&
    (decide (9 ≤ u.dot) || (u.showBgLeft && u.showSpritesLeft))

/-- Whether the current dot is a visible pixel (R346). -/
def Ppu.composing (u : Ppu) : Bool := u.visible && decide (1 ≤ u.dot) && decide (u.dot ≤ 256)

/-- Pixel composition on a visible pixel (R346 to R352): the sprite-zero hit, and the colour into the frame buffer. -/
def Ppu.compose (cart : Option Cartridge) (u : Ppu) : Ppu :=
  if u.composing then
    let bg := u.backgroundPixel
    let fg := u.spritePixel
    let colour := Config.palette (u.colourIndex cart (resolvePriority bg fg))
    { u with
      spriteZeroHit := u.spriteZeroHit || u.zeroHit bg fg
      fb := FrameBuffer.plot u.fb u.scanline.toNat (u.dot - 1) colour }
  else u

/-! ## The clock -/

/-- The advance of the dot and scanline counters (R311). -/
def Ppu.advance (u : Ppu) : Ppu :=
  if u.dot + 1 = 341 then
    if u.scanline + 1 = 261 then { u with dot := 0, scanline := -1, frameComplete := true }
    else { u with dot := 0, scanline := u.scanline + 1 }
  else { u with dot := u.dot + 1 }

/-- What one `PPU.Clock` does to the PPU (R310). -/
def Ppu.clock (cart : Option Cartridge) (u : Ppu) : Ppu := ((u.dotWork cart).compose cart).advance

/-- `ArmNmi()` (60_exceptions.md R403). -/
def armNmi (p : Params) (s : State) : State :=
  match p.nmiDelay with
  | .zero => { s with nmiPending := true }
  | .one => { s with nmiArmed := true }

/-- `PPU.Clock()` (R310), with the NMI armed at scanline 241, dot 1 if `ctrl.enable_nmi` is 1 then (R316). -/
def ppuClock (p : Params) (s : State) : State :=
  let s1 := if s.ppu.atVerticalBlank && s.ppu.enableNmi then armNmi p s else s
  { s1 with ppu := s.ppu.clock s.cart }

end Sys2Proof.Machine
end

