-- ==== Sys2Proof/Machine/System.lean ====
section
/-! DEFINITION. The System clock (55_system_clock_dma.md R370 to R378) and the host actions (00_scope.md R7). -/

namespace Sys2Proof.Machine

/-- Continue with a next state; a fault or a refusal stays as it is. -/
def thenNext (r : Result) (f : State → State) : Result :=
  match r with
  | .next s => .next (f s)
  | .fault e => .fault e
  | .refused e => .refused e

/-- Count a `CPU.Clock` call (R375, 10_state.md R28). -/
def countCycle (s : State) : State := { s with cpu := { s.cpu with cycles := s.cpu.cycles + 1 } }

/-- `ExecuteInstruction()` (30_encoding.md R123): fetch, decode, resolve, execute. -/
def executeInstruction (s : State) : Result :=
  let f := fetchInstr s
  exec f.1 f.2

/-- `CPU.Clock()` (R375): an instruction when no cycles are owed, else one cycle less owed. -/
def cpuClock (s : State) : Result :=
  let s1 := countCycle s
  if s1.cpu.debt = 0 then executeInstruction s1
  else .next { s1 with cpu := { s1.cpu with debt := s1.cpu.debt - 1 } }

/-- Step 3 of R371: deliver a pending NMI and clear it (60_exceptions.md R404). -/
def deliverNmi (s : State) : State := if s.nmiPending then cpuNmi { s with nmiPending := false } else s

/-- Step 4 of R371: with `NMI_DELAY` = 1 an armed NMI becomes pending. -/
def promoteNmi (p : Params) (s : State) : State :=
  if p.nmiDelay = .one ∧ s.nmiArmed then { s with nmiArmed := false, nmiPending := true } else s

/-- Step 5 of R371. -/
def countTick (s : State) : State := { s with master := s.master + 1 }

/-- Steps 3 to 5 of R371. -/
def endTick (p : Params) (s : State) : State := countTick (promoteNmi p (deliverNmi s))

/-- Step 2 of R371: in a CPU slot (R372) the DMA controller steps if a transfer is armed, else the CPU. -/
def slotStep (s : State) : Result :=
  if s.master % 3 = 0 then
    if s.dma.state ≠ .idle then .next (dmaStep s) else cpuClock s
  else .next s

/-- `System.Clock()` (R371). -/
def systemClock (p : Params) (s : State) : Result := thenNext (slotStep (ppuClock p s)) (endTick p)

/-- What the host can do, each between two `System.Clock` calls (00_scope.md R7). -/
inductive HostAction where
  /-- `System.Clock()` -/
  | clock
  /-- `System.Reset()` -/
  | reset
  /-- `System.InsertCartridge(cart)` -/
  | insertCartridge (c : Cartridge)
  /-- write the button byte of a controller port -/
  | setButtons (port : Fin 2) (v : Byte)
  /-- clear `frame_complete` after reading the frame buffer -/
  | ackFrame
  /-- `CPU.IRQ()` -/
  | irq
deriving DecidableEq, Repr

/-- Write a button byte (R7, 10_state.md R52). -/
def setButtons (port : Fin 2) (v : Byte) (s : State) : State := { s with ctrlIn := s.ctrlIn.set port v }

/-- Clear `frame_complete` (R7, 10_state.md R37). -/
def ackFrame (s : State) : State := { s with ppu := { s.ppu with frameComplete := false } }

/-- The effect of a host action. -/
def hostAct (p : Params) (a : HostAction) (s : State) : Result :=
  match a with
  | .clock => systemClock p s
  | .reset => .next (systemReset p s)
  | .insertCartridge c => .next (insertCartridge p c s)
  | .setButtons port v => .next (setButtons port v s)
  | .ackFrame => .next (ackFrame s)
  | .irq => .next (cpuIrq s)

/-- A sequence of host actions, stopping at the first fault or refusal. -/
def hostRun (p : Params) : List HostAction → State → Result
  | [], s => .next s
  | a :: rest, s =>
    match hostAct p a s with
    | .next t => hostRun p rest t
    | .fault e => .fault e
    | .refused e => .refused e

end Sys2Proof.Machine
end

