-- ==== Sys2Proof/Machine/Step.lean ====
section
/-! DEFINITION. The step of the whole machine: one `System.Clock` call (00_scope.md R6, D48). -/

namespace Sys2Proof.Machine

/-- One step: `System.Clock()` (55_system_clock_dma.md R371) with the parameter values the spec takes (00_scope.md R10). -/
def step (s : State) : Host.Outcome State Fault Refusal := systemClock Params.default s

/-- The state with an opcode-table word placed where the next step fetches, the machine made ready to fetch in that step
(log entry 1). -/
def State.withFetchWord (s : State) (nbits w : Nat) : State :=
  match tableBytes nbits w with
  | [b0, b1, b2] => readyToFetch (placeCode b0 b1 b2 s)
  | _ => s

end Sys2Proof.Machine
end

