-- ==== Sys2Proof/Safety.lean ====
section
/-! DEFINITION. What a safe run is, the invariant of the machine, and the terms the statements use: reading one byte, the
registers by name, what an access may change, and the instruction forms with their operands as the spec tabulates them. -/

namespace Sys2Proof.Machine

/-! ## Safe runs and the invariant -/

/-- A result is safe when it is a next state: nothing in the CORE faults (60_exceptions.md R400). -/
def safeResult (r : Result) : Prop := ∃ t, r = .next t

/-- The low bit of the number of the next CPU slot (55_system_clock_dma.md R372, R381). -/
def State.nextSlotOdd (s : State) : Bool := decide ((s.master + 2) / 3 % 2 = 1)

/-- The palette store in canonical form, with nothing at the four entries that are never addressed (10_state.md R35). -/
def paletteWf (pal : Memory) : Bool :=
  Memory.wf 32 pal && pal.all fun c => c.1 != 0x10 && c.1 != 0x14 && c.1 != 0x18 && c.1 != 0x1C

/-- What every step and every host action keeps of the PPU. -/
structure Ppu.Inv (u : Ppu) : Prop where
  oam : Memory.wf 256 u.oam = true
  nt : Memory.wf 2048 u.nt = true
  pal : paletteWf u.pal = true
  pat : Memory.wf 8192 u.pat = true
  fb : FrameBuffer.wf u.fb = true
  scanline : -1 ≤ u.scanline ∧ u.scanline ≤ 260
  dot : u.dot ≤ 340
  spriteCount : u.spriteCount ≤ 8

/-- What every step and every host action keeps: Break 0 and Unused 1 in `P` (R25); every memory in canonical form; the timing
grid (R37); the sprite count (R33); a cartridge that is legal (R92); DMA reads in even slots and writes in odd ones (R382). -/
structure State.Inv (s : State) : Prop where
  status : s.cpu.p &&& 0x30#8 = 0x20#8
  ppu : s.ppu.Inv
  ram : Memory.wf 2048 s.ram = true
  cart : ∀ c, s.cart = some c → c.legal = true ∧ c.wf = true
  dmaRead : s.dma.state = .read → s.nextSlotOdd = false
  dmaWrite : s.dma.state = .write → s.nextSlotOdd = true

/-! ## Registers and bytes -/

/-- The CPU registers by name. -/
inductive RegName where
  | a
  | x
  | y
  | sp
  | pc
  | p
deriving DecidableEq, Repr

/-- The value of a register. -/
def Cpu.reg (c : Cpu) : RegName → Nat
  | .a => c.a.toNat
  | .x => c.x.toNat
  | .y => c.y.toNat
  | .sp => c.sp.toNat
  | .pc => c.pc.toNat
  | .p => c.p.toNat

/-- The value of an 8-bit register; `pc` stands for its low byte. -/
def Cpu.byteReg (c : Cpu) (r : RegName) : Byte := BitVec.ofNat 8 (c.reg r)

/-- Every register but those listed is unchanged. -/
def regsKept (except : List RegName) (c d : Cpu) : Prop := ∀ r, r ∉ except → d.reg r = c.reg r

/-- Every flag but those listed is unchanged. -/
def flagsKept (except : List Flag) (p q : Byte) : Prop := ∀ f, f ∉ except → getFlag f q = getFlag f p

/-- Z and N are those of a result, every other flag is unchanged (00_scope.md R13). -/
def flagsZN (r p q : Byte) : Prop :=
  getFlag .z q = decide (r = 0#8) ∧ getFlag .n q = r.msb ∧ flagsKept [.z, .n] p q

/-- The byte a bus read of an address gives. -/
def busByte (a : Addr) (s : State) : Byte := (memRead a s).1

/-- The word at an address, low byte first (20_memory.md R71). -/
def busWord (a : Addr) (s : State) : Addr := addrOf (busByte a s) (busByte (a + 1#16) s)

/-- An address behind which a device answers: the PPU registers and the controller ports (20_memory.md R84). -/
def deviceAddr (a : Addr) : Bool :=
  (decide (0x2000 ≤ a.toNat) && decide (a.toNat ≤ 0x3FFF)) || a == 0x4016#16 || a == 0x4017#16

/-- An address a read of which has a side effect (20_memory.md R74). -/
def readSideEffect (a : Addr) : Bool :=
  (decide (0x2000 ≤ a.toNat) && decide (a.toNat ≤ 0x3FFF) && (a.toNat % 8 == 2 || a.toNat % 8 == 7)) ||
    a == 0x4016#16 || a == 0x4017#16

/-- Two addresses of the same RAM byte (20_memory.md R78). -/
abbrev sameRamByte (a b : Addr) : Prop := a.toNat ≤ 0x1FFF ∧ b.toNat ≤ 0x1FFF ∧ a.toNat % 0x0800 = b.toNat % 0x0800

/-- Everything but the CPU registers is the same. -/
def sameOutsideCpu (s t : State) : Prop := t = { s with cpu := t.cpu }

/-- Everything but the CPU registers and RAM is the same. -/
def sameOutsideCpuRam (s t : State) : Prop := t = { s with cpu := t.cpu, ram := t.ram }

/-- All that a bus read can change: the two side effects of the PPU registers, a controller's shift register, the log. -/
def onlyReadEffects (s t : State) : Prop :=
  t =
    { s with
      ppu :=
        { s.ppu with
          verticalBlank := t.ppu.verticalBlank
          w := t.ppu.w
          v := t.ppu.v
          dataBuf := t.ppu.dataBuf }
      ctrlShift := t.ctrlShift
      log := t.log }

/-! ## Operands -/

/-- The operand byte `m` of an operand form: the immediate byte, or the byte at the effective address. -/
def operandByte (o : Operand) (s : State) : Byte :=
  match o with
  | .imm d => d
  | o => busByte (resolve o s).ea s

/-- The state after an operand is read. -/
def operandAfter (o : Operand) (s : State) : State :=
  match o with
  | .imm _ => s
  | o => (memRead (resolve o s).ea s).2

/-- Reading the operand has no side effect. -/
def operandQuiet (o : Operand) (s : State) : Prop :=
  match o with
  | .imm _ => True
  | o => readSideEffect (resolve o s).ea = false

/-- One more cycle when the form reports a page cross (30_encoding.md R138). -/
def crossCycle (o : Operand) (s : State) : Nat := if (resolve o s).crossed then 1 else 0

/-- The read-modify-write operations. -/
inductive ModifyOp where
  | inc
  | dec
  | asl
  | lsr
  | rol
  | ror
deriving DecidableEq, Repr

/-- The byte a read-modify-write operation gives, on naturals, from the byte and the carry (R170, R171, R180 to R183). -/
def ModifyOp.value (op : ModifyOp) (m : Byte) (c : Bool) : Nat :=
  match op with
  | .inc => (m.toNat + 1) % 256
  | .dec => (m.toNat + 255) % 256
  | .asl => m.toNat * 2 % 256
  | .lsr => m.toNat / 2
  | .rol => m.toNat * 2 % 256 + c.toNat
  | .ror => m.toNat / 2 + c.toNat * 128

/-- The carry a read-modify-write operation leaves; INC and DEC leave it alone. -/
def ModifyOp.carry (op : ModifyOp) (m : Byte) (c : Bool) : Bool :=
  match op with
  | .inc => c
  | .dec => c
  | .asl => decide (128 ≤ m.toNat)
  | .lsr => decide (m.toNat % 2 = 1)
  | .rol => decide (128 ≤ m.toNat)
  | .ror => decide (m.toNat % 2 = 1)

/-- The logical operations on the accumulator. -/
inductive LogicOp where
  | and
  | ora
  | eor
deriving DecidableEq, Repr

/-- The byte a logical operation gives (R190 to R192). -/
def LogicOp.value (op : LogicOp) (a m : Byte) : Byte :=
  match op with
  | .and => a &&& m
  | .ora => a ||| m
  | .eor => a ^^^ m

/-! ## Instruction forms, as 30_encoding.md R121 and 70_reset_and_hazards.md R470 tabulate them -/

/-- The 18 load instructions: destination, operand, base cycles (R150 to R152, R470). -/
def loadForm : Instr → Option (RegName × Operand × Nat)
  | .ldaImm d => some (.a, .imm d, 2)
  | .ldaZp d => some (.a, .zp d, 3)
  | .ldaZpX d => some (.a, .zpX d, 4)
  | .ldaAbs a => some (.a, .abs a, 4)
  | .ldaAbsX a => some (.a, .absX a, 4)
  | .ldaAbsY a => some (.a, .absY a, 4)
  | .ldaIndX d => some (.a, .indX d, 6)
  | .ldaIndY d => some (.a, .indY d, 5)
  | .ldxImm d => some (.x, .imm d, 2)
  | .ldxZp d => some (.x, .zp d, 3)
  | .ldxZpY d => some (.x, .zpY d, 4)
  | .ldxAbs a => some (.x, .abs a, 4)
  | .ldxAbsY a => some (.x, .absY a, 4)
  | .ldyImm d => some (.y, .imm d, 2)
  | .ldyZp d => some (.y, .zp d, 3)
  | .ldyZpX d => some (.y, .zpX d, 4)
  | .ldyAbs a => some (.y, .abs a, 4)
  | .ldyAbsX a => some (.y, .absX a, 4)
  | _ => none

/-- The 13 store instructions: source, operand, cycles (R153 to R155, R470). -/
def storeForm : Instr → Option (RegName × Operand × Nat)
  | .staZp d => some (.a, .zp d, 3)
  | .staZpX d => some (.a, .zpX d, 4)
  | .staAbs a => some (.a, .abs a, 4)
  | .staAbsX a => some (.a, .absX a, 5)
  | .staAbsY a => some (.a, .absY a, 5)
  | .staIndX d => some (.a, .indX d, 6)
  | .staIndY d => some (.a, .indY d, 6)
  | .stxZp d => some (.x, .zp d, 3)
  | .stxZpY d => some (.x, .zpY d, 4)
  | .stxAbs a => some (.x, .abs a, 4)
  | .styZp d => some (.y, .zp d, 3)
  | .styZpX d => some (.y, .zpX d, 4)
  | .styAbs a => some (.y, .abs a, 4)
  | _ => none

/-- The five transfers that set Z and N: source and destination (R160 to R164). -/
def transferForm : Instr → Option (RegName × RegName)
  | .tax => some (.a, .x)
  | .tay => some (.a, .y)
  | .txa => some (.x, .a)
  | .tya => some (.y, .a)
  | .tsx => some (.sp, .x)
  | _ => none

/-- INX, INY, DEX, DEY: the register and what is added to it modulo 256 (R172 to R175). -/
def indexStepForm : Instr → Option (RegName × Byte)
  | .inx => some (.x, 1#8)
  | .iny => some (.y, 1#8)
  | .dex => some (.x, 0xFF#8)
  | .dey => some (.y, 0xFF#8)
  | _ => none

/-- The 24 read-modify-write forms on memory: operation, operand, cycles (R170, R171, R180 to R183, R470). -/
def modifyForm : Instr → Option (ModifyOp × Operand × Nat)
  | .incZp d => some (.inc, .zp d, 5)
  | .incZpX d => some (.inc, .zpX d, 6)
  | .incAbs a => some (.inc, .abs a, 6)
  | .incAbsX a => some (.inc, .absX a, 7)
  | .decZp d => some (.dec, .zp d, 5)
  | .decZpX d => some (.dec, .zpX d, 6)
  | .decAbs a => some (.dec, .abs a, 6)
  | .decAbsX a => some (.dec, .absX a, 7)
  | .aslZp d => some (.asl, .zp d, 5)
  | .aslZpX d => some (.asl, .zpX d, 6)
  | .aslAbs a => some (.asl, .abs a, 6)
  | .aslAbsX a => some (.asl, .absX a, 7)
  | .lsrZp d => some (.lsr, .zp d, 5)
  | .lsrZpX d => some (.lsr, .zpX d, 6)
  | .lsrAbs a => some (.lsr, .abs a, 6)
  | .lsrAbsX a => some (.lsr, .absX a, 7)
  | .rolZp d => some (.rol, .zp d, 5)
  | .rolZpX d => some (.rol, .zpX d, 6)
  | .rolAbs a => some (.rol, .abs a, 6)
  | .rolAbsX a => some (.rol, .absX a, 7)
  | .rorZp d => some (.ror, .zp d, 5)
  | .rorZpX d => some (.ror, .zpX d, 6)
  | .rorAbs a => some (.ror, .abs a, 6)
  | .rorAbsX a => some (.ror, .absX a, 7)
  | _ => none

/-- The four accumulator forms of the shifts and rotates (R180 to R183). -/
def accumulatorForm : Instr → Option (ModifyOp)
  | .aslAcc => some (.asl)
  | .lsrAcc => some (.lsr)
  | .rolAcc => some (.rol)
  | .rorAcc => some (.ror)
  | _ => none

/-- The 24 forms of AND, ORA, EOR: operation, operand, base cycles (R190 to R192, R470). -/
def logicForm : Instr → Option (LogicOp × Operand × Nat)
  | .andImm d => some (.and, .imm d, 2)
  | .andZp d => some (.and, .zp d, 3)
  | .andZpX d => some (.and, .zpX d, 4)
  | .andAbs a => some (.and, .abs a, 4)
  | .andAbsX a => some (.and, .absX a, 4)
  | .andAbsY a => some (.and, .absY a, 4)
  | .andIndX d => some (.and, .indX d, 6)
  | .andIndY d => some (.and, .indY d, 5)
  | .oraImm d => some (.ora, .imm d, 2)
  | .oraZp d => some (.ora, .zp d, 3)
  | .oraZpX d => some (.ora, .zpX d, 4)
  | .oraAbs a => some (.ora, .abs a, 4)
  | .oraAbsX a => some (.ora, .absX a, 4)
  | .oraAbsY a => some (.ora, .absY a, 4)
  | .oraIndX d => some (.ora, .indX d, 6)
  | .oraIndY d => some (.ora, .indY d, 5)
  | .eorImm d => some (.eor, .imm d, 2)
  | .eorZp d => some (.eor, .zp d, 3)
  | .eorZpX d => some (.eor, .zpX d, 4)
  | .eorAbs a => some (.eor, .abs a, 4)
  | .eorAbsX a => some (.eor, .absX a, 4)
  | .eorAbsY a => some (.eor, .absY a, 4)
  | .eorIndX d => some (.eor, .indX d, 6)
  | .eorIndY d => some (.eor, .indY d, 5)
  | _ => none

/-- The two forms of BIT: operand and cycles (R193, R470). -/
def bitForm : Instr → Option (Operand × Nat)
  | .bitZp d => some (.zp d, 3)
  | .bitAbs a => some (.abs a, 4)
  | _ => none

/-- The 14 compare forms: register, operand, base cycles (R200 to R202, R470). -/
def compareForm : Instr → Option (RegName × Operand × Nat)
  | .cmpImm d => some (.a, .imm d, 2)
  | .cmpZp d => some (.a, .zp d, 3)
  | .cmpZpX d => some (.a, .zpX d, 4)
  | .cmpAbs a => some (.a, .abs a, 4)
  | .cmpAbsX a => some (.a, .absX a, 4)
  | .cmpAbsY a => some (.a, .absY a, 4)
  | .cmpIndX d => some (.a, .indX d, 6)
  | .cmpIndY d => some (.a, .indY d, 5)
  | .cpxImm d => some (.x, .imm d, 2)
  | .cpxZp d => some (.x, .zp d, 3)
  | .cpxAbs a => some (.x, .abs a, 4)
  | .cpyImm d => some (.y, .imm d, 2)
  | .cpyZp d => some (.y, .zp d, 3)
  | .cpyAbs a => some (.y, .abs a, 4)
  | _ => none

/-- The 16 forms of ADC and SBC: whether it subtracts, operand, base cycles (R210, R211, R470). -/
def addForm : Instr → Option (Bool × Operand × Nat)
  | .adcImm d => some (false, .imm d, 2)
  | .adcZp d => some (false, .zp d, 3)
  | .adcZpX d => some (false, .zpX d, 4)
  | .adcAbs a => some (false, .abs a, 4)
  | .adcAbsX a => some (false, .absX a, 4)
  | .adcAbsY a => some (false, .absY a, 4)
  | .adcIndX d => some (false, .indX d, 6)
  | .adcIndY d => some (false, .indY d, 5)
  | .sbcImm d => some (true, .imm d, 2)
  | .sbcZp d => some (true, .zp d, 3)
  | .sbcZpX d => some (true, .zpX d, 4)
  | .sbcAbs a => some (true, .abs a, 4)
  | .sbcAbsX a => some (true, .absX a, 4)
  | .sbcAbsY a => some (true, .absY a, 4)
  | .sbcIndX d => some (true, .indX d, 6)
  | .sbcIndY d => some (true, .indY d, 5)
  | _ => none

/-- The eight branches: the flag tested, the value that takes the branch, the offset (R222 to R229). -/
def branchForm : Instr → Option (Flag × Bool × Byte)
  | .bcc off => some (.c, false, off)
  | .bcs off => some (.c, true, off)
  | .beq off => some (.z, true, off)
  | .bne off => some (.z, false, off)
  | .bmi off => some (.n, true, off)
  | .bpl off => some (.n, false, off)
  | .bvc off => some (.v, false, off)
  | .bvs off => some (.v, true, off)
  | _ => none

/-- The seven flag instructions: the flag and the value written (R251 to R257). -/
def flagForm : Instr → Option (Flag × Bool)
  | .clc => some (.c, false)
  | .sec => some (.c, true)
  | .cli => some (.i, false)
  | .sei => some (.i, true)
  | .cld => some (.d, false)
  | .sed => some (.d, true)
  | .clv => some (.v, false)
  | _ => none

/-! ## Frames -/

/-- What an instruction that only reads an operand leaves of memory: every byte of plain memory, and every byte at all if
the read has no side effect (20_memory.md R74). -/
def memoryReadOnly (o : Operand) (s t : State) : Prop :=
  (∀ a, deviceAddr a = false → busByte a t = busByte a s) ∧ (operandQuiet o s → ∀ a, busByte a t = busByte a s)

/-- What an instruction that stores one byte at `ea` leaves of memory: every byte of plain memory that is not a mirror of
the one stored, and every such byte at all if `ea` is plain memory. -/
def memoryBut (ea : Addr) (s t : State) : Prop :=
  ∀ a, (deviceAddr a = false ∨ deviceAddr ea = false) → ¬sameRamByte ea a → busByte a t = busByte a s

/-- Everything but the CPU registers, RAM and the log is the same: what a push and a vector read can change. -/
def sameOutsideCpuRamLog (s t : State) : Prop := t = { s with cpu := t.cpu, ram := t.ram, log := t.log }

/-- Three bytes pushed from a stack pointer down, and every byte at another address unchanged (48_stack.md R235). -/
def pushedThree (b0 b1 b2 : Byte) (s t : State) : Prop :=
  busByte (stackAddr s.cpu.sp) t = b0 ∧ busByte (stackAddr (s.cpu.sp - 1#8)) t = b1 ∧
    busByte (stackAddr (s.cpu.sp - 2#8)) t = b2 ∧
    ∀ a, ¬sameRamByte (stackAddr s.cpu.sp) a → ¬sameRamByte (stackAddr (s.cpu.sp - 1#8)) a →
      ¬sameRamByte (stackAddr (s.cpu.sp - 2#8)) a → busByte a t = busByte a s

/-! ## Who may write a flag or a register (10_state.md R20, R21, R24) -/

/-- The instructions R24 lists as writing a flag; Break and Unused are written by none (R25). -/
def mayWriteFlag (f : Flag) (i : Instr) : Bool :=
  match f with
  | .c =>
    (addForm i).isSome || (compareForm i).isSome || (accumulatorForm i).isSome ||
      ((modifyForm i).any fun m => m.1 != .inc && m.1 != .dec) || i == .clc || i == .sec || i == .plp || i == .rti
  | .z | .n =>
    (loadForm i).isSome || (transferForm i).isSome || (indexStepForm i).isSome || (modifyForm i).isSome ||
      (accumulatorForm i).isSome || (logicForm i).isSome || (bitForm i).isSome || (compareForm i).isSome ||
      (addForm i).isSome || i == .pla || i == .plp || i == .rti
  | .i => i == .sei || i == .cli || i == .plp || i == .rti || i == .brk
  | .d => i == .sed || i == .cld || i == .plp || i == .rti
  | .v => (addForm i).isSome || (bitForm i).isSome || i == .clv || i == .plp || i == .rti
  | .b | .u => false

/-- The instructions that R20, R21 and R22 let write a register other than `P`; every PC change but the fetch is a branch, a
jump, a return or BRK. -/
def mayWriteReg (r : RegName) (i : Instr) : Bool :=
  match r with
  | .a =>
    ((loadForm i).any fun l => l.1 == .a) || (logicForm i).isSome || (addForm i).isSome || (accumulatorForm i).isSome ||
      i == .pla || i == .txa || i == .tya
  | .x => ((loadForm i).any fun l => l.1 == .x) || i == .tax || i == .tsx || i == .inx || i == .dex
  | .y => ((loadForm i).any fun l => l.1 == .y) || i == .tay || i == .iny || i == .dey
  | .sp =>
    i == .txs || i == .pha || i == .php || i == .pla || i == .plp || i == .rts || i == .rti || i == .brk ||
      (match i with
        | .jsr _ => true
        | _ => false)
  | .pc =>
    (branchForm i).isSome || i == .rts || i == .rti || i == .brk ||
      (match i with
        | .jsr _ => true
        | .jmpAbs _ => true
        | .jmpInd _ => true
        | _ => false)
  | .p => true

/-! ## What a reset leaves -/

/-- Every register, latch, shifter and counter of the PPU at the value that 10_state.md R65 and 70_reset_and_hazards.md R442
give it (decision D31), its memories and the frame buffer those of `u` (R443, decision D36). -/
def ppuResetFrom (u t : Ppu) : Prop :=
  t.ctrl = 0x00#8 ∧ t.mask = 0x00#8 ∧ t.oamAddr = 0x00#8 ∧ t.verticalBlank = false ∧ t.spriteZeroHit = false ∧
    t.spriteOverflow = false ∧ t.v = 0#15 ∧ t.t = 0#15 ∧ t.fineX = 0#3 ∧ t.w = false ∧ t.dataBuf = 0x00#8 ∧
    t.scanline = -1 ∧ t.dot = 0 ∧ t.frameComplete = false ∧ t.nxId = 0x00#8 ∧ t.nxAt = 0#2 ∧ t.nxLo = 0x00#8 ∧
    t.nxHi = 0x00#8 ∧ t.bgLo = 0#16 ∧ t.bgHi = 0#16 ∧ t.atLo = 0#16 ∧ t.atHi = 0#16 ∧ t.spriteCount = 0 ∧
    t.zeroPossible = false ∧
    (∀ i : Fin 8, t.secOam[i] = ⟨0xFF#8, 0xFF#8, 0xFF#8, 0xFF#8⟩ ∧ t.sprLo[i] = 0x00#8 ∧ t.sprHi[i] = 0x00#8 ∧
      t.sprX[i] = 0x00#8) ∧
    t.oam = u.oam ∧ t.nt = u.nt ∧ t.pal = u.pal ∧ t.pat = u.pat ∧ t.fb = u.fb

/-- What `System.Reset` leaves outside the CPU and the log: the PPU (R442), the master counter, the DMA controller, the shift
registers and the NMI wiring cleared (R440, decision D17); the memories, the cartridge and the button bytes of `s` (R443). -/
def outsideCpuResetFrom (s t : State) : Prop :=
  ppuResetFrom s.ppu t.ppu ∧ t.master = 0 ∧ t.dma.state = .idle ∧ t.dma.page = 0x00#8 ∧ t.dma.cursor = 0x00#8 ∧
    t.dma.data = 0x00#8 ∧ t.ctrlShift[0] = 0x00#8 ∧ t.ctrlShift[1] = 0x00#8 ∧ t.nmiPending = false ∧ t.nmiArmed = false ∧
    t.ram = s.ram ∧ t.ctrlIn = s.ctrlIn ∧ t.cart = s.cart

/-! ## Repeated operations -/

/-- The state after reading an address so many times. -/
def readTimes (a : Addr) : Nat → State → State
  | 0, s => s
  | n + 1, s => readTimes a n (memRead a s).2

/-- The state after so many steps of the DMA controller. -/
def dmaTimes : Nat → State → State
  | 0, s => s
  | n + 1, s => dmaTimes n (dmaStep s)

/-- The PPU after so many clocks. -/
def clockTimes (cart : Option Cartridge) : Nat → Ppu → Ppu
  | 0, u => u
  | n + 1, u => clockTimes cart n (u.clock cart)

/-- An address at which fetching a byte reads memory and nothing else: RAM, or PRG of an inserted cartridge. -/
abbrev codeAddr (a : Addr) (s : State) : Prop := a.toNat ≤ 0x1FFF ∨ (s.cart ≠ none ∧ 0x8000 ≤ a.toNat)

/-- The CPU-bus addresses nobody claims (20_memory.md R83). -/
abbrev unclaimedAddr (s : State) (a : Addr) : Prop :=
  (0x4000 ≤ a.toNat ∧ a.toNat ≤ 0x4013) ∨ a.toNat = 0x4015 ∨ (0x4018 ≤ a.toNat ∧ a.toNat ≤ 0x7FFF) ∨
    (s.cart = none ∧ 0x8000 ≤ a.toNat)

end Sys2Proof.Machine
end

