-- ==== Sys2Proof/Certificates/Slice0/Obligations.lean ====
section
/-! DEFINITION. The statements for the provers, from the numbered rules of spec/. -/

open Sys2Proof Sys2Proof.Machine

/-! ## Encoding -/

/-- 30_encoding.md R120, R121: decoding the bytes of a well-formed instruction gives it back, whatever follows. -/
def Obligations.DecodeEncodeRoundTrip : Prop :=
  ∀ (i : Instr) (rest : List Byte), i.wellFormed = true → decode (encode i ++ rest) = .ok i rest

/-- 30_encoding.md R120: bytes that decode are the encoding of what they decode to, and that is well-formed: each word has
one meaning. -/
def Obligations.DecodedBytesAreTheEncoding : Prop :=
  ∀ (bs rest : List Byte) (i : Instr), decode bs = .ok i rest → bs = encode i ++ rest ∧ i.wellFormed = true

/-- 30_encoding.md R121, R141: words written out from the opcode map and from the syntax table's examples. -/
def Obligations.SampleWordsDecode : Prop :=
  decode [0xA9#8, 0x65#8] = .ok (.ldaImm 0x65#8) [] ∧ decode [0xBD#8, 0x34#8, 0x12#8] = .ok (.ldaAbsX 0x1234#16) [] ∧
  decode [0x96#8, 0x10#8] = .ok (.stxZpY 0x10#8) [] ∧ decode [0x9A#8] = .ok .txs [] ∧
  decode [0xFE#8, 0xFF#8, 0x02#8] = .ok (.incAbsX 0x02FF#16) [] ∧ decode [0x6A#8] = .ok .rorAcc [] ∧
  decode [0x51#8, 0x10#8] = .ok (.eorIndY 0x10#8) [] ∧ decode [0xC1#8, 0x10#8] = .ok (.cmpIndX 0x10#8) [] ∧
  decode [0xE9#8, 0xF0#8] = .ok (.sbcImm 0xF0#8) [] ∧ decode [0xD0#8, 0xFB#8] = .ok (.bne 0xFB#8) [] ∧
  decode [0x68#8] = .ok .pla [] ∧ decode [0x6C#8, 0xFF#8, 0x02#8] = .ok (.jmpInd 0x02FF#16) [] ∧
  decode [0x00#8] = .ok .brk [] ∧ decode [0x58#8] = .ok .cli [] ∧ decode [0x02#8, 0xFF#8] = .ok (.und 0x02#8) [0xFF#8]

/-- 30_encoding.md R122, R139: every opcode byte decodes, whatever the two bytes after it; to the undefined-opcode no-op
exactly when it is one of the 105 bytes of R139. -/
def Obligations.EveryOpcodeByteDecodes : Prop :=
  undefinedOpcodes.length = 105 ∧
  ∀ op b1 b2 : Byte, ∃ i rest, decode [op, b1, b2] = .ok i rest ∧ i.wellFormed = true ∧
    (undefinedOpcodes.contains op = true ↔ i = .und op)

/-! ## The CPU bus and the cartridge -/

/-- 20_memory.md R78: after a write in 0x0000 to 0x1FFF its four mirrors read the byte, every other address reads as before,
and nothing but RAM has changed. -/
def Obligations.RamMirrorReadAfterWrite : Prop :=
  ∀ (s : State) (a b : Addr) (v : Byte), a.toNat ≤ 0x1FFF →
    memWrite a v s = { s with ram := (memWrite a v s).ram } ∧
    (sameRamByte a b → busByte b (memWrite a v s) = v) ∧ (¬sameRamByte a b → busByte b (memWrite a v s) = busByte b s)

/-- 20_memory.md R79: a PPU register answers at every address of 0x2000 to 0x3FFF with the same low three bits. -/
def Obligations.PpuRegisterMirror : Prop :=
  ∀ (s : State) (a b : Addr) (v : Byte), 0x2000 ≤ a.toNat → a.toNat ≤ 0x3FFF → 0x2000 ≤ b.toNat → b.toNat ≤ 0x3FFF →
    a.toNat % 8 = b.toNat % 8 → memRead a s = memRead b s ∧ memWrite a v s = memWrite b v s

/-- 20_memory.md R76, R77, R83, R95: an address nobody claims reads 0x00 and ignores a write; each is logged and changes
nothing else.  A read of 0x4014 is one of them (R82). -/
def Obligations.UnclaimedAccessesAreLogged : Prop :=
  ∀ (s : State) (a : Addr) (v : Byte),
    ((unclaimedAddr s a ∨ a = 0x4014#16) → memRead a s = (0x00#8, { s with log := .outOfRange a false :: s.log })) ∧
    (unclaimedAddr s a → memWrite a v s = { s with log := .outOfRange a true :: s.log })

/-- 20_memory.md R74, 50_ppu_registers.md R279, R281, R285, R287: what a bus read can change.  0x2002 clears vertical blank
and `w`; 0x2007 refills the buffer and advances `v`; 0x4016 and 0x4017 shift; every other address changes nothing but, if
nobody claims it, the log. -/
def Obligations.BusReadSideEffects : Prop :=
  ∀ (s : State) (a : Addr),
    (readSideEffect a = false →
      (memRead a s).2 = s ∨ (memRead a s).2 = { s with log := .outOfRange a false :: s.log }) ∧
    (0x2000 ≤ a.toNat → a.toNat ≤ 0x3FFF → a.toNat % 8 = 2 →
      (memRead a s).2 = { s with ppu := { s.ppu with verticalBlank := false, w := false } }) ∧
    (0x2000 ≤ a.toNat → a.toNat ≤ 0x3FFF → a.toNat % 8 = 7 →
      (memRead a s).2 =
        { s with
          ppu :=
            { s.ppu with
              dataBuf := ppuRead s.cart s.ppu (s.ppu.v.setWidth 16)
              v := s.ppu.v + (if s.ppu.ctrl.getLsbD 2 then 32#15 else 1#15) } }) ∧
    (memRead 0x4016#16 s).2 = { s with ctrlShift := s.ctrlShift.set 0 (s.ctrlShift[0] <<< 1) } ∧
    (memRead 0x4017#16 s).2 = { s with ctrlShift := s.ctrlShift.set 1 (s.ctrlShift[1] <<< 1) }

/-- 20_memory.md R91, R94: with a cartridge, 0x8000 to 0xFFFF reads PRG through a 16 KB window (one bank, seen twice) or a
32 KB window, with no other effect; a write there changes nothing at all (the discarding is the spec's decision D20). -/
def Obligations.CartridgeWindow : Prop :=
  ∀ (s : State) (c : Cartridge) (a : Addr) (v : Byte), s.cart = some c → 0x8000 ≤ a.toNat →
    memRead a s = (Memory.read c.prg (a.toNat % (if c.prgBanks = 1#8 then 0x4000 else 0x8000)), s) ∧
    memWrite a v s = s ∧
    (c.prgBanks = 1#8 → a.toNat < 0xC000 → busByte (a + 0x4000#16) s = busByte a s)

/-- 20_memory.md R92, 70_reset_and_hazards.md R440 to R445: an illegal cartridge changes nothing (decision D46); a legal one
(decision D21) is wired in and the whole machine is reset: the CPU registers are the parameters' (decisions D3, D4) with PC
from the new cartridge's reset vector, every other register is cleared (D17, D31), and no memory of the console changes (D36).
The second conjunct's `wf` is the model's form of a byte array (log entry 10), and the kept log is log entry 8. -/
def Obligations.InsertCartridgeEffect : Prop :=
  ∀ (p : Params) (s : State) (c : Cartridge),
    (c.legal = false → insertCartridge p c s = s) ∧
    (c.legal = true → c.wf = true →
      let wired := { s with cart := some c }
      let t := insertCartridge p c s
      t.cart = some c ∧
      t.cpu.a = p.resetA ∧ t.cpu.x = p.resetX ∧ t.cpu.y = p.resetY ∧ t.cpu.sp = p.resetSp ∧ t.cpu.p = p.resetP ∧
      t.cpu.pc = busWord 0xFFFC#16 wired ∧ t.cpu.debt = p.resetCycles ∧ t.cpu.cycles = 0 ∧
      outsideCpuResetFrom wired t ∧ t.log = s.log)

/-- 20_memory.md R80, R81: after a write of any value to a port, its reads give the button byte's bits from bit 7 down in
data bit 0, and 0 from the ninth on; the other port's register is untouched (decision D18). -/
def Obligations.ControllerShiftsOutButtons : Prop :=
  ∀ (s : State) (port : Fin 2) (v : Byte) (k : Nat),
    let a := if port = 0 then 0x4016#16 else 0x4017#16
    let t := readTimes a k (memWrite a v s)
    busByte a t = (if k < 8 ∧ s.ctrlIn[port].getLsbD (7 - k) = true then 0x01#8 else 0x00#8) ∧
    ∀ other : Fin 2, other ≠ port → t.ctrlShift[other] = s.ctrlShift[other]

/-- 20_memory.md R82: a write to 0x4014 arms a transfer with the page and the cursor at zero, and changes nothing else; a
read of 0x4014 is unclaimed. -/
def Obligations.DmaTriggerArms : Prop :=
  ∀ (s : State) (v : Byte),
    memWrite 0x4014#16 v s = { s with dma := { state := .sync, page := v, cursor := 0x00#8, data := s.dma.data } } ∧
    memRead 0x4014#16 s = (0x00#8, { s with log := .outOfRange 0x4014#16 false :: s.log })

/-! ## The PPU bus -/

/-- 20_memory.md R98, R99, R101: for every nametable address, 0x3000 to 0x3EFF folded onto 0x2000 to 0x2EFF, the logical
table is the address's 1 KB stride, and the physical table follows from it by the mirroring mode (the one-screen modes are
decision D24; Horizontal with no cartridge is D22).  A read gives the store's byte at the table and the offset in it (the
store's two tables lie one after the other: log entry 10), and a write is read back at exactly the addresses of the same
table and offset. -/
def Obligations.NametableMirroring : Prop :=
  (∀ a : Nat, 0x2000 ≤ a → a ≤ 0x3EFF →
    physicalTable .vertical a = a / 0x400 % 4 % 2 ∧ physicalTable .horizontal a = a / 0x400 % 4 / 2 ∧
    physicalTable .oneScreenLo a = 0 ∧ physicalTable .oneScreenHi a = 1) ∧
  mirroringOf none = .horizontal ∧ (∀ c : Cartridge, mirroringOf (some c) = c.mirroring) ∧
  ∀ (s : State) (a b : Addr) (x : Byte), 0x2000 ≤ a.toNat → a.toNat ≤ 0x3EFF → 0x2000 ≤ b.toNat → b.toNat ≤ 0x3EFF →
    let t := ppuWrite a x s
    t = { s with ppu := { s.ppu with nt := t.ppu.nt } } ∧
    ppuRead s.cart s.ppu a =
      Memory.read s.ppu.nt (1024 * physicalTable (mirroringOf s.cart) a.toNat + a.toNat % 1024) ∧
    ppuRead t.cart t.ppu b =
      if physicalTable (mirroringOf s.cart) a.toNat = physicalTable (mirroringOf s.cart) b.toNat ∧
          a.toNat % 1024 = b.toNat % 1024 then x
      else ppuRead s.cart s.ppu b

/-- 20_memory.md R102: palette RAM is 32 bytes repeated over 0x3F00 to 0x3FFF, entries 0x10, 0x14, 0x18, 0x1C being 0x00,
0x04, 0x08, 0x0C; a read is masked to 6 bits, or with 0x30 under greyscale (decision D30). -/
def Obligations.PaletteMirroring : Prop :=
  ∀ (s : State) (a b : Addr) (x : Byte), 0x3F00 ≤ a.toNat → a.toNat ≤ 0x3FFF → 0x3F00 ≤ b.toNat → b.toNat ≤ 0x3FFF →
    let t := ppuWrite a x s
    let entry (c : Addr) : Nat := if c.toNat % 4 = 0 then c.toNat % 16 else c.toNat % 32
    ppuRead t.cart t.ppu b =
      if entry a = entry b then x &&& (if s.ppu.mask.getLsbD 0 then 0x30#8 else 0x3F#8) else ppuRead s.cart s.ppu b

/-! ## PPU registers -/

/-- 50_ppu_registers.md R277, R283, R284: two writes of the scroll port, or of the address port, starting from `w` = 0, and
a control write (bit maps: decisions D25, D26). -/
def Obligations.ScrollAndAddressPorts : Prop :=
  ∀ (s : State) (x y : Byte), s.ppu.w = false →
    (let t := (memWrite 0x2005#16 y (memWrite 0x2005#16 x s)).ppu
     t.fineX.toNat = x.toNat % 8 ∧ loopyGet .coarseX t.t = x.toNat / 8 ∧ loopyGet .fineY t.t = y.toNat % 8 ∧
     loopyGet .coarseY t.t = y.toNat / 8 ∧ loopyGet .nametableX t.t = loopyGet .nametableX s.ppu.t ∧
     loopyGet .nametableY t.t = loopyGet .nametableY s.ppu.t ∧ t.v = s.ppu.v ∧ t.w = false) ∧
    (let t := (memWrite 0x2006#16 y (memWrite 0x2006#16 x s)).ppu
     t.v.toNat = x.toNat % 64 * 256 + y.toNat ∧ t.t = t.v ∧ t.fineX = s.ppu.fineX ∧ t.w = false) ∧
    (let t := (memWrite 0x2000#16 x s).ppu
     t.ctrl = x ∧ loopyGet .nametableX t.t = x.toNat % 2 ∧ loopyGet .nametableY t.t = x.toNat / 2 % 2 ∧
     loopyGet .coarseX t.t = loopyGet .coarseX s.ppu.t ∧ loopyGet .coarseY t.t = loopyGet .coarseY s.ppu.t ∧
     loopyGet .fineY t.t = loopyGet .fineY s.ppu.t ∧ t.v = s.ppu.v ∧ t.w = s.ppu.w)

/-- 50_ppu_registers.md R278 to R282, R285, R286, R288: a data-port read is buffered below the palette and direct in it; a
data-port write is a PPU-bus write at `v`, which a PPU read there gives back; each advances `v` by 1 or 32 modulo 32768.  The
mask write, the status read, the OAM address and the OAM port (decisions D23, D26, D27, D30, D40). -/
def Obligations.DataStatusAndOamPorts : Prop :=
  ∀ (s : State) (x : Byte),
    let here := ppuRead s.cart s.ppu (s.ppu.v.setWidth 16)
    let step : Nat := if s.ppu.ctrl.getLsbD 2 then 32 else 1
    (s.ppu.v.toNat % 0x4000 < 0x3F00 →
      (memRead 0x2007#16 s).1 = s.ppu.dataBuf ∧ busByte 0x2007#16 { s with ppu := { s.ppu with dataBuf := here } } = here) ∧
    (0x3F00 ≤ s.ppu.v.toNat % 0x4000 → (memRead 0x2007#16 s).1 = here) ∧
    (memRead 0x2007#16 s).2.ppu.dataBuf = here ∧
    (memRead 0x2007#16 s).2.ppu.v.toNat = (s.ppu.v.toNat + step) % 32768 ∧
    (memWrite 0x2007#16 x s).ppu.v.toNat = (s.ppu.v.toNat + step) % 32768 ∧
    (let t := memWrite 0x2007#16 x s
     let w := ppuWrite (s.ppu.v.setWidth 16) x s
     t = { w with ppu := { w.ppu with v := t.ppu.v } } ∧
     (s.ppu.v.toNat % 0x4000 < 0x3F00 →
       (s.ppu.v.toNat % 0x4000 < 0x2000 → ∀ c, s.cart = some c → c.chrBanks = 0#8) →
       ppuRead t.cart t.ppu (s.ppu.v.setWidth 16) = x) ∧
     (0x3F00 ≤ s.ppu.v.toNat % 0x4000 →
       ppuRead t.cart t.ppu (s.ppu.v.setWidth 16) = x &&& (if s.ppu.mask.getLsbD 0 then 0x30#8 else 0x3F#8))) ∧
    memWrite 0x2001#16 x s = { s with ppu := { s.ppu with mask := x } } ∧
    memRead 0x2004#16 s = (Memory.read s.ppu.oam s.ppu.oamAddr.toNat, s) ∧
    (memRead 0x2002#16 s).1.toNat =
      s.ppu.verticalBlank.toNat * 128 + s.ppu.spriteZeroHit.toNat * 64 + s.ppu.spriteOverflow.toNat * 32 +
        s.ppu.dataBuf.toNat % 32 ∧
    (let t := memWrite 0x2004#16 x s
     Memory.read t.ppu.oam s.ppu.oamAddr.toNat = x ∧ t.ppu.oamAddr = s.ppu.oamAddr + 1#8 ∧
     ∀ k, k ≠ s.ppu.oamAddr.toNat → Memory.read t.ppu.oam k = Memory.read s.ppu.oam k) ∧
    memWrite 0x2003#16 x s = { s with ppu := { s.ppu with oamAddr := x } }

/-- 10_state.md R41: where the fields of a loopy register lie, that a field write is masked to the field, and that it never
changes an adjacent field. -/
def Obligations.LoopyFieldWrites : Prop :=
  (∀ reg : LoopyReg,
    loopyGet .coarseX reg = reg.toNat % 32 ∧ loopyGet .coarseY reg = reg.toNat / 32 % 32 ∧
    loopyGet .nametableX reg = reg.toNat / 1024 % 2 ∧ loopyGet .nametableY reg = reg.toNat / 2048 % 2 ∧
    loopyGet .fineY reg = reg.toNat / 4096 % 8) ∧
  (∀ (f g : LoopyField) (x : Nat) (reg : LoopyReg),
    loopyGet f (loopySet f x reg) = x % 2 ^ f.width ∧ (g ≠ f → loopyGet g (loopySet f x reg) = loopyGet g reg)) ∧
  loopySet .coarseX 0xFFFF 0#15 = 0x001F#15

/-! ## Operands and arithmetic -/

/-- 30_encoding.md R127 to R135: the effective address and the page-cross indicator of every operand form.  Both bytes of a
page-0 pointer come from page 0. -/
def Obligations.AddressingModes : Prop :=
  ∀ (s : State) (d : Byte) (a : Addr),
    let x := s.cpu.x.toNat
    let y := s.cpu.y.toNat
    let pointer (p : Nat) : Nat :=
      (busByte (BitVec.ofNat 16 (p % 256)) s).toNat + 256 * (busByte (BitVec.ofNat 16 ((p + 1) % 256)) s).toNat
    (resolve (.imm d) s).ea = s.cpu.pc - 1#16 ∧ (resolve (.imm d) s).crossed = false ∧
    (resolve (.zp d) s).ea.toNat = d.toNat ∧ (resolve (.zp d) s).crossed = false ∧
    (resolve (.zpX d) s).ea.toNat = (d.toNat + x) % 256 ∧ (resolve (.zpX d) s).crossed = false ∧
    (resolve (.zpY d) s).ea.toNat = (d.toNat + y) % 256 ∧ (resolve (.zpY d) s).crossed = false ∧
    (resolve (.abs a) s).ea = a ∧ (resolve (.abs a) s).crossed = false ∧
    (resolve (.absX a) s).ea.toNat = (a.toNat + x) % 65536 ∧
    ((resolve (.absX a) s).crossed = true ↔ (a.toNat + x) % 65536 / 256 ≠ a.toNat / 256) ∧
    (resolve (.absY a) s).ea.toNat = (a.toNat + y) % 65536 ∧
    ((resolve (.absY a) s).crossed = true ↔ (a.toNat + y) % 65536 / 256 ≠ a.toNat / 256) ∧
    (resolve (.indX d) s).ea.toNat = pointer (d.toNat + x) ∧ (resolve (.indX d) s).crossed = false ∧
    (resolve (.indY d) s).ea.toNat = (pointer d.toNat + y) % 65536 ∧
    ((resolve (.indY d) s).crossed = true ↔ (pointer d.toNat + y) % 65536 / 256 ≠ pointer d.toNat / 256)

/-- 46_adc_sbc.md R212: the sum, its carry, and its overflow in all three of the rule's readings. -/
def Obligations.AddWithCarryMeaning : Prop :=
  ∀ (a m : Byte) (c : Bool),
    let r := addWithCarry a m c
    r.value.toNat = (a.toNat + m.toNat + c.toNat) % 256 ∧
    (r.carry = true ↔ 0xFF < a.toNat + m.toNat + c.toNat) ∧
    (r.overflow = true ↔ (a ^^^ r.value) &&& (m ^^^ r.value) &&& 0x80#8 ≠ 0#8) ∧
    (r.overflow = true ↔ a.msb = m.msb ∧ r.value.msb ≠ a.msb) ∧
    (r.overflow = true ↔ a.toInt + m.toInt + c.toNat < -128 ∨ 127 < a.toInt + m.toInt + c.toNat) ∧
    (r.overflow = true ↔ ~~~(a ^^^ m) &&& (a ^^^ r.value) &&& 0x80#8 ≠ 0#8)

/-! ## What each instruction does, that it completes, and its frame.

In every statement of this part the instruction answers a next state for EVERY state and every operand. -/

/-- 40_load_store.md R150 to R152: all forms of LDA, LDX, LDY. -/
def Obligations.LoadInstructions : Prop :=
  ∀ (i : Instr) (r : RegName) (o : Operand) (base : Nat) (s : State), loadForm i = some (r, o, base) →
    ∃ t, exec i s = .next t ∧ t.cpu.byteReg r = operandByte o s ∧ flagsZN (operandByte o s) s.cpu.p t.cpu.p ∧
      regsKept [r, .p] s.cpu t.cpu ∧ t.cpu.debt = s.cpu.debt + (base + crossCycle o s - 1) ∧
      t.cpu.cycles = s.cpu.cycles ∧ sameOutsideCpu (operandAfter o s) t ∧ memoryReadOnly o s t

/-- 40_load_store.md R153 to R155: all forms of STA, STX, STY.  The byte goes to the address the form resolves to, which a
store to RAM shows; no register and no flag changes, and the target is not read. -/
def Obligations.StoreInstructions : Prop :=
  ∀ (i : Instr) (r : RegName) (o : Operand) (base : Nat) (s : State), storeForm i = some (r, o, base) →
    ∃ t, exec i s = .next t ∧
      t = { memWrite (resolve o s).ea (s.cpu.byteReg r) s with cpu := { s.cpu with debt := s.cpu.debt + (base - 1) } } ∧
      ((resolve o s).ea.toNat ≤ 0x1FFF → busByte (resolve o s).ea t = s.cpu.byteReg r) ∧
      memoryBut (resolve o s).ea s t

/-- 41_transfer.md R160 to R165: the encodings, the five transfers that set Z and N, and TXS, which sets no flag. -/
def Obligations.TransferInstructions : Prop :=
  (encode .tax = [0xAA#8] ∧ encode .tay = [0xA8#8] ∧ encode .txa = [0x8A#8] ∧ encode .tya = [0x98#8] ∧
    encode .tsx = [0xBA#8] ∧ encode .txs = [0x9A#8]) ∧
  (∀ (i : Instr) (src dst : RegName) (s : State), transferForm i = some (src, dst) →
    ∃ t, exec i s = .next t ∧ t.cpu.byteReg dst = s.cpu.byteReg src ∧ flagsZN (s.cpu.byteReg src) s.cpu.p t.cpu.p ∧
      regsKept [dst, .p] s.cpu t.cpu ∧ t.cpu.debt = s.cpu.debt + 1 ∧ t.cpu.cycles = s.cpu.cycles ∧
      sameOutsideCpu s t ∧ ∀ a, busByte a t = busByte a s) ∧
  ∀ s : State, ∃ t, exec .txs s = .next t ∧ t.cpu = { s.cpu with sp := s.cpu.x, debt := s.cpu.debt + 1 } ∧
    sameOutsideCpu s t ∧ ∀ a, busByte a t = busByte a s

/-- 42_incdec.md R172 to R175: INX, INY, DEX, DEY, with their encodings. -/
def Obligations.IndexStepInstructions : Prop :=
  (encode .inx = [0xE8#8] ∧ encode .iny = [0xC8#8] ∧ encode .dex = [0xCA#8] ∧ encode .dey = [0x88#8]) ∧
  ∀ (i : Instr) (r : RegName) (k : Byte) (s : State), indexStepForm i = some (r, k) →
    ∃ t, exec i s = .next t ∧ t.cpu.byteReg r = s.cpu.byteReg r + k ∧
      flagsZN (s.cpu.byteReg r + k) s.cpu.p t.cpu.p ∧ regsKept [r, .p] s.cpu t.cpu ∧
      t.cpu.debt = s.cpu.debt + 1 ∧ t.cpu.cycles = s.cpu.cycles ∧ sameOutsideCpu s t ∧ ∀ a, busByte a t = busByte a s

/-- 42_incdec.md R170, R171, 43_shift_rotate.md R180 to R183, 20_memory.md R73: INC, DEC and the memory forms of ASL, LSR,
ROL, ROR: one read, one write of the result at the same address, C, Z and N from it. -/
def Obligations.ModifyMemoryInstructions : Prop :=
  ∀ (i : Instr) (op : ModifyOp) (o : Operand) (base : Nat) (s : State), modifyForm i = some (op, o, base) →
    let ea := (resolve o s).ea
    let m := busByte ea s
    let r := BitVec.ofNat 8 (op.value m (getFlag .c s.cpu.p))
    ∃ t, exec i s = .next t ∧ sameOutsideCpu (memWrite ea r (memRead ea s).2) t ∧
      getFlag .z t.cpu.p = decide (r = 0#8) ∧ getFlag .n t.cpu.p = r.msb ∧
      getFlag .c t.cpu.p = op.carry m (getFlag .c s.cpu.p) ∧ flagsKept [.c, .z, .n] s.cpu.p t.cpu.p ∧
      regsKept [.p] s.cpu t.cpu ∧ t.cpu.debt = s.cpu.debt + (base - 1) ∧ t.cpu.cycles = s.cpu.cycles ∧
      (ea.toNat ≤ 0x1FFF → busByte ea t = r) ∧ memoryBut ea s t

/-- 43_shift_rotate.md R180 to R183: the accumulator forms of ASL, LSR, ROL, ROR. -/
def Obligations.AccumulatorShifts : Prop :=
  ∀ (i : Instr) (op : ModifyOp) (s : State), accumulatorForm i = some op →
    ∃ t, exec i s = .next t ∧ t.cpu.a.toNat = op.value s.cpu.a (getFlag .c s.cpu.p) ∧
      getFlag .z t.cpu.p = decide (t.cpu.a = 0#8) ∧ getFlag .n t.cpu.p = t.cpu.a.msb ∧
      getFlag .c t.cpu.p = op.carry s.cpu.a (getFlag .c s.cpu.p) ∧ flagsKept [.c, .z, .n] s.cpu.p t.cpu.p ∧
      regsKept [.a, .p] s.cpu t.cpu ∧ t.cpu.debt = s.cpu.debt + 1 ∧ t.cpu.cycles = s.cpu.cycles ∧
      sameOutsideCpu s t ∧ ∀ a, busByte a t = busByte a s

/-- 44_logical.md R190 to R192: all forms of AND, ORA, EOR. -/
def Obligations.LogicInstructions : Prop :=
  ∀ (i : Instr) (op : LogicOp) (o : Operand) (base : Nat) (s : State), logicForm i = some (op, o, base) →
    ∃ t, exec i s = .next t ∧ t.cpu.a = op.value s.cpu.a (operandByte o s) ∧ flagsZN t.cpu.a s.cpu.p t.cpu.p ∧
      regsKept [.a, .p] s.cpu t.cpu ∧ t.cpu.debt = s.cpu.debt + (base + crossCycle o s - 1) ∧
      t.cpu.cycles = s.cpu.cycles ∧ sameOutsideCpu (operandAfter o s) t ∧ memoryReadOnly o s t

/-- 44_logical.md R193: both forms of BIT, with their encodings and cycles; the byte is read once, as any bus read is. -/
def Obligations.BitInstructions : Prop :=
  (∀ d, encode (.bitZp d) = [0x24#8, d] ∧ bitForm (.bitZp d) = some (.zp d, 3)) ∧
  (∀ a, encode (.bitAbs a) = [0x2C#8, loByte a, hiByte a] ∧ bitForm (.bitAbs a) = some (.abs a, 4)) ∧
  ∀ (i : Instr) (o : Operand) (base : Nat) (s : State), bitForm i = some (o, base) →
    ∃ t, exec i s = .next t ∧ getFlag .z t.cpu.p = decide (s.cpu.a &&& operandByte o s = 0#8) ∧
      getFlag .n t.cpu.p = (operandByte o s).getLsbD 7 ∧ getFlag .v t.cpu.p = (operandByte o s).getLsbD 6 ∧
      flagsKept [.z, .n, .v] s.cpu.p t.cpu.p ∧ regsKept [.p] s.cpu t.cpu ∧ t.cpu.debt = s.cpu.debt + (base - 1) ∧
      t.cpu.cycles = s.cpu.cycles ∧ sameOutsideCpu (operandAfter o s) t ∧ memoryReadOnly o s t

/-- 45_compare.md R200 to R203: all forms of CMP, CPX, CPY. -/
def Obligations.CompareInstructions : Prop :=
  ∀ (i : Instr) (r : RegName) (o : Operand) (base : Nat) (s : State), compareForm i = some (r, o, base) →
    let m := operandByte o s
    ∃ t, exec i s = .next t ∧ getFlag .c t.cpu.p = decide (m.toNat ≤ s.cpu.reg r) ∧
      getFlag .z t.cpu.p = decide (s.cpu.reg r = m.toNat) ∧
      getFlag .n t.cpu.p = decide (128 ≤ (s.cpu.reg r + 256 - m.toNat) % 256) ∧
      flagsKept [.c, .z, .n] s.cpu.p t.cpu.p ∧ regsKept [.p] s.cpu t.cpu ∧
      t.cpu.debt = s.cpu.debt + (base + crossCycle o s - 1) ∧ t.cpu.cycles = s.cpu.cycles ∧
      sameOutsideCpu (operandAfter o s) t ∧ memoryReadOnly o s t

/-- 46_adc_sbc.md R210 to R213, 10_state.md R26: all forms of ADC and SBC, binary whatever `P.D` holds; for SBC the borrow is
the complement of C. -/
def Obligations.AddSubtractInstructions : Prop :=
  ∀ (i : Instr) (sub : Bool) (o : Operand) (base : Nat) (s : State), addForm i = some (sub, o, base) →
    let m := operandByte o s
    let c := (getFlag .c s.cpu.p).toNat
    let sum := if sub then s.cpu.a.toNat + 255 - m.toNat + c else s.cpu.a.toNat + m.toNat + c
    let signed : Int := if sub then s.cpu.a.toInt - m.toInt - 1 + c else s.cpu.a.toInt + m.toInt + c
    ∃ t, exec i s = .next t ∧ t.cpu.a.toNat = sum % 256 ∧ getFlag .c t.cpu.p = decide (256 ≤ sum) ∧
      getFlag .v t.cpu.p = decide (signed < -128 ∨ 127 < signed) ∧ getFlag .z t.cpu.p = decide (t.cpu.a = 0#8) ∧
      getFlag .n t.cpu.p = t.cpu.a.msb ∧ flagsKept [.c, .z, .v, .n] s.cpu.p t.cpu.p ∧ regsKept [.a, .p] s.cpu t.cpu ∧
      t.cpu.debt = s.cpu.debt + (base + crossCycle o s - 1) ∧ t.cpu.cycles = s.cpu.cycles ∧
      sameOutsideCpu (operandAfter o s) t ∧ memoryReadOnly o s t

/-- 47_branch.md R220 to R229: the eight branches, from PC already past the instruction: the target, and 2, 3 or 4 cycles. -/
def Obligations.BranchInstructions : Prop :=
  ∀ (i : Instr) (f : Flag) (b : Bool) (off : Byte) (s : State), branchForm i = some (f, b, off) →
    ∃ t, exec i s = .next t ∧
      t = { s with cpu := { s.cpu with pc := t.cpu.pc, debt := t.cpu.debt } } ∧
      (getFlag f s.cpu.p ≠ b → t.cpu.pc = s.cpu.pc ∧ t.cpu.debt = s.cpu.debt + 1) ∧
      (getFlag f s.cpu.p = b →
        (t.cpu.pc.toNat : Int) = ((s.cpu.pc.toNat : Int) + off.toInt) % 65536 ∧
        t.cpu.debt = s.cpu.debt + (if t.cpu.pc.toNat / 256 = s.cpu.pc.toNat / 256 then 2 else 3)) ∧
      ∀ a, busByte a t = busByte a s

/-- 48_stack.md R235, R237, R238: PHA and PHP: the byte at `0x0100 | SP`, SP down by one modulo 256. -/
def Obligations.PushInstructions : Prop :=
  ∀ (i : Instr) (s : State), i = .pha ∨ i = .php →
    ∃ t, exec i s = .next t ∧ t.cpu = { s.cpu with sp := s.cpu.sp - 1#8, debt := s.cpu.debt + 2 } ∧
      busByte (stackAddr s.cpu.sp) t = (if i = .pha then s.cpu.a else s.cpu.p ||| 0x30#8) ∧
      sameOutsideCpuRam s t ∧ memoryBut (stackAddr s.cpu.sp) s t

/-- 48_stack.md R236, R239, R240: PLA and PLP: SP up by one modulo 256, then the byte at `0x0100 | SP`; PLP ignores bits 4
and 5 of it (decision D2). -/
def Obligations.PullInstructions : Prop :=
  ∀ (i : Instr) (s : State), i = .pla ∨ i = .plp →
    let b := busByte (stackAddr (s.cpu.sp + 1#8)) s
    ∃ t, exec i s = .next t ∧ t.cpu.sp = s.cpu.sp + 1#8 ∧ t.cpu.debt = s.cpu.debt + 3 ∧
      t.cpu.cycles = s.cpu.cycles ∧
      (i = .pla → t.cpu.a = b ∧ flagsZN b s.cpu.p t.cpu.p ∧ regsKept [.a, .sp, .p] s.cpu t.cpu) ∧
      (i = .plp → t.cpu.p = (b &&& 0xCF#8) ||| 0x20#8 ∧ regsKept [.sp, .p] s.cpu t.cpu) ∧
      sameOutsideCpu s t ∧ ∀ a, busByte a t = busByte a s

/-- 49_jump_system_flags.md R245, R246: JMP absolute, and JMP indirect with the page wrap: the high byte of the target comes
from the same page as the low byte. -/
def Obligations.JumpInstructions : Prop :=
  (∀ (s : State) (a : Addr), ∃ t, exec (.jmpAbs a) s = .next t ∧
    t.cpu = { s.cpu with pc := a, debt := s.cpu.debt + 2 } ∧ sameOutsideCpu s t ∧ ∀ b, busByte b t = busByte b s) ∧
  ∀ (s : State) (ptr : Addr),
    let next := BitVec.ofNat 16 (ptr.toNat / 256 * 256 + (ptr.toNat + 1) % 256)
    let s1 := (memRead ptr s).2
    ∃ t, exec (.jmpInd ptr) s = .next t ∧
      t.cpu = { s.cpu with pc := addrOf (busByte ptr s) (busByte next s1), debt := s.cpu.debt + 4 } ∧
      sameOutsideCpu (memRead next s1).2 t ∧
      (∀ b, deviceAddr b = false → busByte b t = busByte b s) ∧
      (readSideEffect ptr = false → readSideEffect next = false →
        t.cpu.pc = addrOf (busByte ptr s) (busByte next s) ∧ ∀ b, busByte b t = busByte b s)

/-- 49_jump_system_flags.md R247, R248: JSR pushes the address of its own last byte, high byte first; RTS adds one to what it
pulls. -/
def Obligations.SubroutineInstructions : Prop :=
  (∀ (s : State) (a : Addr), ∃ t, exec (.jsr a) s = .next t ∧
    t.cpu = { s.cpu with pc := a, sp := s.cpu.sp - 2#8, debt := s.cpu.debt + 5 } ∧
    busByte (stackAddr s.cpu.sp) t = hiByte (s.cpu.pc - 1#16) ∧
    busByte (stackAddr (s.cpu.sp - 1#8)) t = loByte (s.cpu.pc - 1#16) ∧ sameOutsideCpuRam s t ∧
    ∀ b, ¬sameRamByte (stackAddr s.cpu.sp) b → ¬sameRamByte (stackAddr (s.cpu.sp - 1#8)) b →
      busByte b t = busByte b s) ∧
  ∀ s : State, ∃ t, exec .rts s = .next t ∧
    t.cpu =
      { s.cpu with
        pc := addrOf (busByte (stackAddr (s.cpu.sp + 1#8)) s) (busByte (stackAddr (s.cpu.sp + 2#8)) s) + 1#16
        sp := s.cpu.sp + 2#8
        debt := s.cpu.debt + 5 } ∧
    sameOutsideCpu s t ∧ ∀ b, busByte b t = busByte b s

/-- 48_stack.md R236, 49_jump_system_flags.md R247, R248: pushing a word and pulling it gives it back and restores SP, for
every SP; JSR followed by RTS returns behind the JSR. -/
def Obligations.StackRoundTrip : Prop :=
  (∀ (s : State) (v : Addr), (pull16 (push16 v s)).1 = v ∧ (pull16 (push16 v s)).2.cpu = s.cpu) ∧
  ∀ (s : State) (a : Addr), ∃ t u, exec (.jsr a) s = .next t ∧ exec .rts t = .next u ∧ u.cpu.pc = s.cpu.pc ∧
    u.cpu.sp = s.cpu.sp ∧ u.cpu.p = s.cpu.p

/-- 49_jump_system_flags.md R250, 60_exceptions.md R401: BRK pushes the address after its padding byte and the status with
Break and Unused 1, sets I, and goes to the vector at 0xFFFE (decision D9). -/
def Obligations.BrkInstruction : Prop :=
  ∀ s : State, ∃ t, exec .brk s = .next t ∧
    pushedThree (hiByte (s.cpu.pc + 1#16)) (loByte (s.cpu.pc + 1#16)) (s.cpu.p ||| 0x30#8) s t ∧
    t.cpu.sp = s.cpu.sp - 3#8 ∧ t.cpu.pc = busWord 0xFFFE#16 s ∧ t.cpu.p = s.cpu.p ||| 0x04#8 ∧
    regsKept [.sp, .pc, .p] s.cpu t.cpu ∧ t.cpu.debt = s.cpu.debt + 6 ∧ t.cpu.cycles = s.cpu.cycles ∧
    sameOutsideCpuRamLog s t

/-- 49_jump_system_flags.md R249, 60_exceptions.md R410: RTI pulls the status (bits 4 and 5 ignored, decision D2), then PC
low and high, and adds nothing. -/
def Obligations.RtiInstruction : Prop :=
  ∀ s : State, ∃ t, exec .rti s = .next t ∧
    t.cpu =
      { s.cpu with
        p := (busByte (stackAddr (s.cpu.sp + 1#8)) s &&& 0xCF#8) ||| 0x20#8
        pc := addrOf (busByte (stackAddr (s.cpu.sp + 2#8)) s) (busByte (stackAddr (s.cpu.sp + 3#8)) s)
        sp := s.cpu.sp + 3#8
        debt := s.cpu.debt + 5 } ∧
    sameOutsideCpu s t ∧ ∀ b, busByte b t = busByte b s

/-- 49_jump_system_flags.md R251 to R258: the encodings; each flag instruction writes its one flag and nothing else; NOP
writes nothing. -/
def Obligations.FlagInstructionsAndNop : Prop :=
  (encode .clc = [0x18#8] ∧ encode .sec = [0x38#8] ∧ encode .cli = [0x58#8] ∧ encode .sei = [0x78#8] ∧
    encode .cld = [0xD8#8] ∧ encode .sed = [0xF8#8] ∧ encode .clv = [0xB8#8] ∧ encode .nop = [0xEA#8]) ∧
  (∀ (i : Instr) (f : Flag) (b : Bool) (s : State), flagForm i = some (f, b) →
    ∃ t, exec i s = .next t ∧ getFlag f t.cpu.p = b ∧ flagsKept [f] s.cpu.p t.cpu.p ∧
      t = { s with cpu := { s.cpu with p := t.cpu.p, debt := s.cpu.debt + 1 } } ∧ ∀ a, busByte a t = busByte a s) ∧
  ∀ s : State, ∃ t, exec .nop s = .next t ∧ t = { s with cpu := { s.cpu with debt := s.cpu.debt + 1 } } ∧
    ∀ a, busByte a t = busByte a s

/-- 49_jump_system_flags.md R262: an undefined opcode is a 2-cycle no-op that is logged with the address of the opcode. -/
def Obligations.UndefinedOpcodes : Prop :=
  ∀ (s : State) (op : Byte), ∃ t, exec (.und op) s = .next t ∧
    t = { s with
          cpu := { s.cpu with debt := s.cpu.debt + 1 }
          log := .undefinedOpcode op (s.cpu.pc - 1#16) :: s.log } ∧
    ∀ a, busByte a t = busByte a s

/-! ## Interrupts -/

/-- 60_exceptions.md R402, R404, R405: NMI entry always, IRQ entry when I is 0: PC and the status with Break 0 and Unused 1
are pushed, I is set, PC comes from the vector, 7 cycles are added to the debt; an IRQ while I is 1 does nothing at all. -/
def Obligations.InterruptEntry : Prop :=
  (∀ s : State, getFlag .i s.cpu.p = true → cpuIrq s = s) ∧
  ∀ (s t : State) (vec : Addr),
    (vec = 0xFFFA#16 ∧ t = cpuNmi s) ∨ (vec = 0xFFFE#16 ∧ t = cpuIrq s ∧ getFlag .i s.cpu.p = false) →
    pushedThree (hiByte s.cpu.pc) (loByte s.cpu.pc) ((s.cpu.p &&& 0xEF#8) ||| 0x20#8) s t ∧
    t.cpu.sp = s.cpu.sp - 3#8 ∧ t.cpu.pc = busWord vec s ∧ t.cpu.p = s.cpu.p ||| 0x04#8 ∧
    regsKept [.sp, .pc, .p] s.cpu t.cpu ∧ t.cpu.debt = s.cpu.debt + 7 ∧ t.cpu.cycles = s.cpu.cycles ∧
    sameOutsideCpuRamLog s t

/-- 60_exceptions.md R402, R404, R405, R410: RTI after an NMI entry, or after the entry of an IRQ taken while I is 0,
restores PC, SP and the status (I as it was), and after BRK it returns to the address of BRK + 2.  The premise is the status policy of R25, an invariant (see InvariantStep). -/
def Obligations.InterruptReturnRoundTrip : Prop :=
  ∀ s : State, s.cpu.p &&& 0x30#8 = 0x20#8 →
    (∃ t, exec .rti (cpuNmi s) = .next t ∧ t.cpu.pc = s.cpu.pc ∧ t.cpu.sp = s.cpu.sp ∧ t.cpu.p = s.cpu.p ∧
      t.cpu.a = s.cpu.a ∧ t.cpu.x = s.cpu.x ∧ t.cpu.y = s.cpu.y) ∧
    (getFlag .i s.cpu.p = false →
      ∃ t, exec .rti (cpuIrq s) = .next t ∧ t.cpu.pc = s.cpu.pc ∧ t.cpu.sp = s.cpu.sp ∧ t.cpu.p = s.cpu.p ∧
        t.cpu.a = s.cpu.a ∧ t.cpu.x = s.cpu.x ∧ t.cpu.y = s.cpu.y) ∧
    ∃ t u, exec .brk s = .next t ∧ exec .rti t = .next u ∧ u.cpu.pc = s.cpu.pc + 1#16 ∧ u.cpu.sp = s.cpu.sp ∧
      u.cpu.p = s.cpu.p

/-- 51_ppu_rendering.md R316, 60_exceptions.md R403, R404: with the delay 0 that the spec fixes (D11), a step delivers an NMI
exactly when it processes scanline 241, dot 1 with NMI enabled, after the CPU or DMA step of the same tick; from a state
with none pending. -/
def Obligations.NmiDelivery : Prop :=
  ∀ s : State, s.nmiPending = false →
    ∃ u, slotStep (ppuClock Params.default s) = .next u ∧
      step s =
        .next
          (if s.ppu.scanline = 241 ∧ s.ppu.dot = 1 ∧ s.ppu.ctrl.getLsbD 7 = true then
            { cpuNmi { u with nmiPending := false } with master := s.master + 1 }
          else { u with master := s.master + 1 })

/-! ## Whole-machine rules over all instructions -/

/-- 10_state.md R20, R21, R22, R24, R25: a flag differs after an instruction only if R24 lists it as a writer of that flag
(Break and Unused: none), a register only if its rule lists it.  The premise is the status policy of R25, an invariant (see
InvariantStep). -/
def Obligations.OnlyListedWriters : Prop :=
  ∀ (i : Instr) (s t : State), s.cpu.p &&& 0x30#8 = 0x20#8 → exec i s = .next t →
    (∀ f, getFlag f t.cpu.p ≠ getFlag f s.cpu.p → mayWriteFlag f i = true) ∧
    ∀ r, t.cpu.reg r ≠ s.cpu.reg r → mayWriteReg r i = true

/-- 55_system_clock_dma.md R376: an instruction's cost is between 2 and 7 cycles, the executing one included. -/
def Obligations.CycleCosts : Prop :=
  ∀ (i : Instr) (s t : State), exec i s = .next t → s.cpu.debt + 1 ≤ t.cpu.debt ∧ t.cpu.debt ≤ s.cpu.debt + 6

/-- 10_state.md R60, 20_memory.md R93, R94: no step changes PRG, the mapper or the banks, or CHR when it is ROM. -/
def Obligations.CartridgeImmutable : Prop :=
  ∀ s t : State, step s = .next t →
    (s.cart = none → t.cart = none) ∧
    ∀ c, s.cart = some c → ∃ d, t.cart = some d ∧ d = { c with chr := d.chr } ∧ (c.chrBanks ≠ 0#8 → d = c)

/-! ## The System clock -/

/-- 55_system_clock_dma.md R371, R375, 30_encoding.md R123: in a CPU slot with no transfer armed and no cycles owed, a step is
the PPU's clock, then the fetch of the bytes at PC, then `exec` of the instruction they decode to, then the end of the tick.
Where the bytes are memory (RAM or PRG), the fetch reads them and advances PC past them, and does nothing else.  That the
opcode and all operand bytes are read before `exec` runs, with PC past the instruction, is the model's reading: log entry 9
(DEDUCED). -/
def Obligations.StepRunsDecodedInstruction : Prop :=
  (∀ (s : State) (i : Instr) (n : Nat), s.master % 3 = 0 → s.dma.state = .idle → s.cpu.debt = 0 →
    let s1 := countCycle (ppuClock Params.default s)
    decode (fetchBytes n s1).1 = .ok i [] →
      step s = thenNext (exec i (fetchBytes n s1).2) (endTick Params.default)) ∧
  ∀ (s : State) (n : Nat), n ≤ 3 → (∀ k, k < n → codeAddr (s.cpu.pc + BitVec.ofNat 16 k) s) →
    fetchBytes n s =
      ((List.range n).map fun k => busByte (s.cpu.pc + BitVec.ofNat 16 k) s,
        { s with cpu := { s.cpu with pc := s.cpu.pc + BitVec.ofNat 16 n } })

/-- 60_exceptions.md R400, R425: every step, with every parameter setting, answers a next state: the machine never faults,
refuses or halts. -/
def Obligations.StepAlwaysAnswersNext : Prop :=
  (∀ s : State, ∃ t, step s = .next t) ∧
  ∀ (p : Params) (as : List HostAction) (s : State), safeResult (hostRun p as s)

/-- 55_system_clock_dma.md R371, 51_ppu_rendering.md R311: every step counts one master tick and advances the PPU by one dot,
whatever the CPU or the DMA controller does in it. -/
def Obligations.TickAdvances : Prop :=
  ∀ s t : State, step s = .next t →
    t.master = s.master + 1 ∧
    (s.ppu.dot ≠ 340 → t.ppu.dot = s.ppu.dot + 1 ∧ t.ppu.scanline = s.ppu.scanline ∧
      t.ppu.frameComplete = s.ppu.frameComplete) ∧
    (s.ppu.dot = 340 → t.ppu.dot = 0 ∧
      t.ppu.scanline = (if s.ppu.scanline = 260 then -1 else s.ppu.scanline + 1) ∧
      t.ppu.frameComplete = (s.ppu.frameComplete || decide (s.ppu.scanline = 260)))

/-- 55_system_clock_dma.md R371, R372, R375, R376, R385: in a tick with no NMI pending and away from scanline 241, dot 1, the
CPU holds every register outside CPU slots and while a transfer is armed, and in a CPU slot with cycles owed only counts one
of them down. -/
def Obligations.CpuWaits : Prop :=
  ∀ s : State, s.nmiPending = false → ¬(s.ppu.scanline = 241 ∧ s.ppu.dot = 1) →
    ∃ t, step s = .next t ∧
      (s.master % 3 ≠ 0 → t.cpu = s.cpu ∧ t.dma = s.dma ∧ t.ram = s.ram) ∧
      (s.dma.state ≠ .idle → t.cpu = s.cpu ∧ t.ram = s.ram) ∧
      (s.master % 3 = 0 → s.dma.state = .idle → s.cpu.debt ≠ 0 →
        t.cpu = { s.cpu with debt := s.cpu.debt - 1, cycles := s.cpu.cycles + 1 } ∧ t.ram = s.ram ∧ t.dma = s.dma)

/-- 55_system_clock_dma.md R382, R383, R384, R387: an armed transfer idles once if the first stolen slot is odd; then 512
steps copy the 256 bytes of a page of RAM or PRG to OAM in order, end in Idle, and change no CPU register, no RAM and not
`oam_addr` (decisions D14, D15). -/
def Obligations.DmaTransfer : Prop :=
  (∀ s : State, s.dma.state = .sync → s.master / 3 % 2 = 1 →
    dmaStep s = { s with dma := { s.dma with state := .read } }) ∧
  ∀ s : State, (s.dma.state = .read ∨ (s.dma.state = .sync ∧ s.master / 3 % 2 = 0)) → s.dma.cursor = 0x00#8 →
    codeAddr (addrOf 0x00#8 s.dma.page) s →
    let t := dmaTimes 512 s
    t.dma.state = .idle ∧ t.dma.cursor = 0x00#8 ∧
    (∀ k : Byte, Memory.read t.ppu.oam k.toNat = busByte (addrOf k s.dma.page) s) ∧
    (∀ n, n < 512 → (dmaTimes n s).dma.state ≠ .idle) ∧ t.cpu = s.cpu ∧ t.ram = s.ram ∧
    t.ppu = { s.ppu with oam := t.ppu.oam }

/-- 10_state.md R65, 70_reset_and_hazards.md R440 to R443: every value after `System.Reset` from any state, with the spec's
parameter values (decisions D3, D4, D17, D31, D36), the two vector reads logged with no cartridge (R441); and the model's
reset state is the reset of a machine with no cartridge and nothing written (log entries 2, 3, 4, 5, 7, 8). -/
def Obligations.ResetValues : Prop :=
  (∀ s : State,
    let t := systemReset Params.default s
    t.cpu.a = 0x00#8 ∧ t.cpu.x = 0x00#8 ∧ t.cpu.y = 0x00#8 ∧ t.cpu.sp = 0xFD#8 ∧ t.cpu.p = 0x24#8 ∧
    t.cpu.pc = busWord 0xFFFC#16 s ∧ t.cpu.debt = 7 ∧ t.cpu.cycles = 0 ∧ outsideCpuResetFrom s t ∧
    (s.cart = none → t.cpu.pc = 0x0000#16 ∧
      t.log = .outOfRange 0xFFFD#16 false :: .outOfRange 0xFFFC#16 false :: s.log) ∧
    (s.cart ≠ none → t.log = s.log)) ∧
  systemReset Params.default { State.reset with log := [] } = State.reset

/-! ## The picture processor -/

/-- 51_ppu_rendering.md R311: the advance of dot and scanline; a frame from (-1, 0) is exactly 89342 clocks, raises
`frame_complete` in the last of them and in no other, and ends at (-1, 0); the PPU never clears the flag. -/
def Obligations.FrameTiming : Prop :=
  ∀ (cart : Option Cartridge) (u : Ppu),
    (let t := u.clock cart
     (u.dot ≠ 340 → t.dot = u.dot + 1 ∧ t.scanline = u.scanline) ∧
     (u.dot = 340 → t.dot = 0 ∧ t.scanline = (if u.scanline = 260 then -1 else u.scanline + 1)) ∧
     t.frameComplete = (u.frameComplete || (decide (u.dot = 340) && decide (u.scanline = 260)))) ∧
    (u.scanline = -1 → u.dot = 0 →
      let t := clockTimes cart 89342 u
      t.scanline = -1 ∧ t.dot = 0 ∧ t.frameComplete = true ∧
      ∀ n, n < 89342 → (clockTimes cart n u).frameComplete = u.frameComplete)

/-- 51_ppu_rendering.md R312, R313, R326, R327: the horizontal and the vertical increment, field by field, when rendering;
neither changes anything when not (decision D28).  Line c of R313 is the vertical one at dot 256 of scanlines -1 to 239, and
does nothing at any other dot or scanline (decision D32). -/
def Obligations.ScrollIncrements : Prop :=
  ∀ u : Ppu,
    u.lineC = (if -1 ≤ u.scanline ∧ u.scanline ≤ 239 ∧ u.dot = 256 then u.incrementY else u) ∧
    (u.rendering = false → u.incrementX = u ∧ u.incrementY = u) ∧
    (u.rendering = true →
      let x := u.incrementX
      let y := u.incrementY
      x = { u with v := x.v } ∧ y = { u with v := y.v } ∧
      loopyGet .coarseX x.v = (loopyGet .coarseX u.v + 1) % 32 ∧
      loopyGet .nametableX x.v =
        (if loopyGet .coarseX u.v = 31 then 1 - loopyGet .nametableX u.v else loopyGet .nametableX u.v) ∧
      loopyGet .coarseY x.v = loopyGet .coarseY u.v ∧ loopyGet .nametableY x.v = loopyGet .nametableY u.v ∧
      loopyGet .fineY x.v = loopyGet .fineY u.v ∧
      loopyGet .fineY y.v = (loopyGet .fineY u.v + 1) % 8 ∧
      loopyGet .coarseY y.v =
        (if loopyGet .fineY u.v < 7 then loopyGet .coarseY u.v
        else if loopyGet .coarseY u.v = 29 ∨ loopyGet .coarseY u.v = 31 then 0
        else loopyGet .coarseY u.v + 1) ∧
      loopyGet .nametableY y.v =
        (if loopyGet .fineY u.v = 7 ∧ loopyGet .coarseY u.v = 29 then 1 - loopyGet .nametableY u.v
        else loopyGet .nametableY u.v) ∧
      loopyGet .coarseX y.v = loopyGet .coarseX u.v ∧ loopyGet .nametableX y.v = loopyGet .nametableX u.v)

/-- 51_ppu_rendering.md R314, R316, R340, R341, 50_ppu_registers.md R273: in a PPU clock vertical blank is set at (241, 1)
and cleared at (-1, 1) only; sprite overflow is cleared at (-1, 1) and set only at dot 257 of a visible scanline with nine
sprites in range; sprite-zero hit is cleared at (-1, 1) and set only on a visible pixel. -/
def Obligations.StatusFlagEvents : Prop :=
  ∀ (cart : Option Cartridge) (u : Ppu),
    let t := u.clock cart
    let prerender := u.scanline = -1 ∧ u.dot = 1
    let inRange (n : Nat) : Prop :=
      0 ≤ u.scanline - ((Memory.read u.oam (4 * n)).toNat : Int) ∧
        u.scanline - ((Memory.read u.oam (4 * n)).toNat : Int) < (if u.ctrl.getLsbD 5 then 16 else 8)
    (prerender → t.verticalBlank = false ∧ t.spriteOverflow = false ∧ t.spriteZeroHit = false) ∧
    (u.scanline = 241 → u.dot = 1 → t.verticalBlank = true) ∧
    (¬prerender → ¬(u.scanline = 241 ∧ u.dot = 1) → t.verticalBlank = u.verticalBlank) ∧
    (¬prerender → t.spriteOverflow ≠ u.spriteOverflow →
      0 ≤ u.scanline ∧ u.scanline ≤ 239 ∧ u.dot = 257 ∧ t.spriteOverflow = true ∧
      ∃ l : List Nat, l.length = 9 ∧ l.Nodup ∧ ∀ n ∈ l, n < 64 ∧ inRange n) ∧
    (¬prerender → t.spriteZeroHit ≠ u.spriteZeroHit →
      0 ≤ u.scanline ∧ u.scanline ≤ 239 ∧ 1 ≤ u.dot ∧ u.dot ≤ 256 ∧ t.spriteZeroHit = true)

/-- 51_ppu_rendering.md R340, R341: the sprites in range, in index order: the first eight go to secondary OAM, the rest of
it is 0xFF, a ninth sets overflow, which eight or fewer leave alone, and `zero_possible` is whether sprite 0 is in range. -/
def Obligations.SpriteEvaluation : Prop :=
  ∀ u : Ppu,
    let h : Int := if u.ctrl.getLsbD 5 then 16 else 8
    let inRange (n : Nat) : Bool :=
      decide (0 ≤ u.scanline - ((Memory.read u.oam (4 * n)).toNat : Int) ∧
        u.scanline - ((Memory.read u.oam (4 * n)).toNat : Int) < h)
    let found := (List.range 64).filter inRange
    let t := u.evaluateSprites
    t.spriteCount = min found.length 8 ∧
    (found.length ≤ 8 → t.spriteOverflow = u.spriteOverflow) ∧ (9 ≤ found.length → t.spriteOverflow = true) ∧
    t.zeroPossible = inRange 0 ∧
    (∀ j : Fin 8, ∀ n, found[j.val]? = some n →
      t.secOam[j] =
        ⟨Memory.read u.oam (4 * n), Memory.read u.oam (4 * n + 1), Memory.read u.oam (4 * n + 2),
          Memory.read u.oam (4 * n + 3)⟩) ∧
    (∀ j : Fin 8, found.length ≤ j.val → t.secOam[j] = ⟨0xFF#8, 0xFF#8, 0xFF#8, 0xFF#8⟩) ∧
    t = { u with
          secOam := t.secOam
          spriteCount := t.spriteCount
          zeroPossible := t.zeroPossible
          spriteOverflow := t.spriteOverflow }

/-- 51_ppu_rendering.md R344, R349: bit reversal, and the priority table. -/
def Obligations.PriorityAndReversal : Prop :=
  (∀ (b : Byte) (k : Nat), k < 8 → (reverse8 b).getLsbD k = b.getLsbD (7 - k)) ∧
  ∀ (bg : BackgroundPixel) (fg : SpritePixel),
    (bg.px = 0#2 → fg.px = 0#2 → resolvePriority bg fg = ⟨0#2, 0#3⟩) ∧
    (bg.px = 0#2 → fg.px ≠ 0#2 → resolvePriority bg fg = ⟨fg.px, fg.pal⟩) ∧
    (bg.px ≠ 0#2 → fg.px = 0#2 → resolvePriority bg fg = bg) ∧
    (bg.px ≠ 0#2 → fg.px ≠ 0#2 → resolvePriority bg fg = if fg.front then ⟨fg.px, fg.pal⟩ else bg)

/-- 51_ppu_rendering.md R346, R350, R352: a PPU clock writes exactly the pixel of its dot on dots 1 to 256 of scanlines 0 to
239, the palette's colour for some 6-bit index; with both layers off that index is palette entry 0's; on every other dot, and
at every other pixel, the frame buffer is as before.  PALETTE is the free value of log entry 6. -/
def Obligations.FrameBufferWrites : Prop :=
  ∀ (cart : Option Cartridge) (u : Ppu) (row column : Nat), row < 240 → column < 256 →
    let t := u.clock cart
    (u.scanline = row ∧ u.dot = column + 1 → ∃ idx, FrameBuffer.pixel t.fb row column = Config.palette idx) ∧
    (u.scanline = row ∧ u.dot = column + 1 → u.mask.getLsbD 3 = false → u.mask.getLsbD 4 = false →
      FrameBuffer.pixel t.fb row column =
        Config.palette ((Memory.read u.pal 0 &&& (if u.mask.getLsbD 0 then 0x30#8 else 0x3F#8)).setWidth 6)) ∧
    (¬(u.scanline = row ∧ u.dot = column + 1) →
      FrameBuffer.pixel t.fb row column = FrameBuffer.pixel u.fb row column)

/-! ## The invariant -/

/-- The invariant holds of the reset state. -/
def Obligations.InvariantAtReset : Prop := State.reset.Inv

/-- 10_state.md R25, R33, R35, R37, 20_memory.md R92, 55_system_clock_dma.md R382: every step from a state with the invariant
gives a state with the invariant. -/
def Obligations.InvariantStep : Prop := ∀ s t : State, s.Inv → step s = .next t → t.Inv

/-- 00_scope.md R7: so does every other host action, with every setting of the parameters whose reset status follows R25. -/
def Obligations.InvariantHostActions : Prop :=
  ∀ (p : Params) (a : HostAction) (s t : State), p.resetP &&& 0x30#8 = 0x20#8 → s.Inv → hostAct p a s = .next t → t.Inv
end

