-- ==== Sys2Proof/Laws/Flags.lean ====
section
/-! SUPPORT. Reading a flag after writing one, and what each flag computation leaves in each flag. -/

namespace Sys2Proof.Machine

@[simp] theorem getFlag_setFlag_same (f : Flag) (b : Bool) (p : Byte) : getFlag f (setFlag f b p) = b := by
  cases f <;> cases b <;> simp [getFlag, setFlag, Flag.bit, Flag.mask]

theorem getFlag_setFlag_other {f g : Flag} (h : g ≠ f) (b : Bool) (p : Byte) :
    getFlag g (setFlag f b p) = getFlag g p := by
  cases f <;> cases g <;> cases b <;> first | exact absurd rfl h | simp [getFlag, setFlag, Flag.bit, Flag.mask]

/-- Reading any flag after writing one. -/
theorem getFlag_setFlag (f g : Flag) (b : Bool) (p : Byte) :
    getFlag g (setFlag f b p) = if g = f then b else getFlag g p := by
  split
  · subst_vars; simp
  · exact getFlag_setFlag_other ‹_› b p

/-- Every flag after `SetZN(r)`. -/
theorem getFlag_setZN (g : Flag) (r p : Byte) :
    getFlag g (setZN r p) = if g = .n then r.msb else if g = .z then decide (r = 0#8) else getFlag g p := by
  simp only [setZN, getFlag_setFlag]
  split <;> rfl

/-- Every flag of the status byte that PHP and BRK push. -/
theorem getFlag_statusPushedByInstruction (g : Flag) (p : Byte) :
    getFlag g (statusPushedByInstruction p) = if g = .b ∨ g = .u then true else getFlag g p := by
  cases g <;> simp [getFlag, statusPushedByInstruction, Flag.bit]

/-- Every flag of the status byte that NMI and IRQ push. -/
theorem getFlag_statusPushedByInterrupt (g : Flag) (p : Byte) :
    getFlag g (statusPushedByInterrupt p) = if g = .b then false else if g = .u then true else getFlag g p := by
  cases g <;> simp [getFlag, statusPushedByInterrupt, Flag.bit]

/-- Every flag of what PLP and RTI load. -/
theorem getFlag_statusPulled (g : Flag) (b : Byte) :
    getFlag g (statusPulled b) = if g = .b then false else if g = .u then true else getFlag g b := by
  cases g <;> simp [getFlag, statusPulled, Flag.bit]

/-- Every flag after ADC or SBC. -/
theorem getFlag_addFlags (g : Flag) (r : AddResult) (p : Byte) :
    getFlag g (addFlags r p) =
      if g = .n then r.value.msb else if g = .z then decide (r.value = 0#8) else if g = .v then r.overflow
      else if g = .c then r.carry else getFlag g p := by
  simp only [addFlags, getFlag_setZN, getFlag_setFlag]

/-- Every flag after a compare. -/
theorem getFlag_compareFlags (g : Flag) (r m p : Byte) :
    getFlag g (compareFlags r m p) =
      if g = .n then (r - m).msb else if g = .z then decide (r = m) else if g = .c then decide (m.toNat ≤ r.toNat)
      else getFlag g p := by
  simp only [compareFlags, getFlag_setFlag]
  split <;> rfl

/-- Every flag after BIT. -/
theorem getFlag_bitFlags (g : Flag) (a m p : Byte) :
    getFlag g (bitFlags a m p) =
      if g = .v then m.getLsbD 6 else if g = .n then m.msb else if g = .z then decide (a &&& m = 0#8)
      else getFlag g p := by
  simp only [bitFlags, getFlag_setFlag]
  split <;> [skip; split] <;> rfl

/-- Two status bytes with the same eight flags are equal. -/
theorem status_ext {p q : Byte} (h : ∀ f, getFlag f p = getFlag f q) : p = q := by
  apply BitVec.eq_of_getLsbD_eq
  intro i hi
  have : i = 0 ∨ i = 1 ∨ i = 2 ∨ i = 3 ∨ i = 4 ∨ i = 5 ∨ i = 6 ∨ i = 7 := by omega
  rcases this with rfl | rfl | rfl | rfl | rfl | rfl | rfl | rfl
  · exact h .c
  · exact h .z
  · exact h .i
  · exact h .d
  · exact h .b
  · exact h .u
  · exact h .v
  · exact h .n

/-- The Break and Unused policy of R25 in terms of the two flags. -/
theorem status_policy_iff (p : Byte) : p &&& 0x30#8 = 0x20#8 ↔ getFlag .b p = false ∧ getFlag .u p = true := by
  constructor
  · intro h
    have h4 := congrArg (fun q => q.getLsbD 4) h
    have h5 := congrArg (fun q => q.getLsbD 5) h
    simpa [getFlag, Flag.bit] using And.intro h4 h5
  · rintro ⟨hb, hu⟩
    apply status_ext
    intro f
    cases f <;> simp_all [getFlag, Flag.bit]

end Sys2Proof.Machine
end

