-- ==== Sys2Proof/Laws/Cells.lean ====
section
/-! SUPPORT. What a read of a memory or of the frame buffer gives after a write, and that writes keep the canonical form. -/

namespace Sys2Proof.Machine

variable {α : Type}

theorem cellsGet_erase (m : List (Nat × α)) (a k : Nat) :
    cellsGet (cellsErase m a) k = if k = a then none else cellsGet m k := by
  induction m with
  | nil => simp [cellsErase, cellsGet]
  | cons c rest ih =>
    obtain ⟨j, v⟩ := c
    by_cases haj : a = j
    · subst haj
      simp only [cellsErase, if_true, cellsGet, ih]
      split <;> simp_all
    · simp only [cellsErase, if_neg haj, cellsGet, ih]
      split
      · subst_vars
        simp [Ne.symm haj]
      · rfl

theorem cellsGet_insert (m : List (Nat × α)) (a k : Nat) (b : α) (h : cellsGet m a = none) :
    cellsGet (cellsInsert m a b) k = if k = a then some b else cellsGet m k := by
  induction m with
  | nil => simp [cellsInsert, cellsGet]
  | cons c rest ih =>
    obtain ⟨j, v⟩ := c
    have haj : a ≠ j := by
      rintro rfl
      simp [cellsGet] at h
    simp only [cellsGet, if_neg haj] at h
    simp only [cellsInsert]
    split
    · simp [cellsGet]
    · simp only [cellsGet, ih h]
      split
      · subst_vars
        simp [Ne.symm haj]
      · rfl

/-- Reading a key after putting a cell. -/
theorem cellsGet_put (m : List (Nat × α)) (a k : Nat) (b : α) :
    cellsGet (cellsPut m a b) k = if k = a then some b else cellsGet m k := by
  rw [cellsPut, cellsGet_insert _ _ _ _ (by simp [cellsGet_erase]), cellsGet_erase]
  split <;> rfl

theorem cellsRising_mono {m : List (Nat × α)} {lo lo' hi : Nat} (h : cellsRising m lo hi = true) (hl : lo' ≤ lo) :
    cellsRising m lo' hi = true := by
  cases m with
  | nil => rfl
  | cons c rest =>
    simp only [cellsRising, Bool.and_eq_true, decide_eq_true_eq] at h ⊢
    exact ⟨⟨by omega, h.1.2⟩, h.2⟩

theorem cellsRising_erase {m : List (Nat × α)} {lo hi a : Nat} (h : cellsRising m lo hi = true) :
    cellsRising (cellsErase m a) lo hi = true := by
  induction m generalizing lo with
  | nil => rfl
  | cons c rest ih =>
    obtain ⟨j, v⟩ := c
    simp only [cellsRising, Bool.and_eq_true, decide_eq_true_eq] at h
    simp only [cellsErase]
    split
    · exact cellsRising_mono (ih h.2) (by omega)
    · simp only [cellsRising, Bool.and_eq_true, decide_eq_true_eq]
      exact ⟨h.1, ih h.2⟩

theorem cellsRising_insert {m : List (Nat × α)} {lo hi a : Nat} {b : α} (h : cellsRising m lo hi = true)
    (hg : cellsGet m a = none) (hlo : lo ≤ a) (hhi : a < hi) : cellsRising (cellsInsert m a b) lo hi = true := by
  induction m generalizing lo with
  | nil => simp [cellsInsert, cellsRising, hlo, hhi]
  | cons c rest ih =>
    obtain ⟨j, v⟩ := c
    simp only [cellsRising, Bool.and_eq_true, decide_eq_true_eq] at h
    have haj : a ≠ j := by
      rintro rfl
      simp [cellsGet] at hg
    simp only [cellsGet, if_neg haj] at hg
    simp only [cellsInsert]
    split
    · simp only [cellsRising, Bool.and_eq_true, decide_eq_true_eq]
      exact ⟨⟨hlo, hhi⟩, ⟨by omega, h.1.2⟩, h.2⟩
    · simp only [cellsRising, Bool.and_eq_true, decide_eq_true_eq]
      exact ⟨h.1, ih h.2 hg (by omega)⟩

/-- Putting a cell below the bound keeps the keys strictly rising. -/
theorem cellsRising_put {m : List (Nat × α)} {hi a : Nat} {b : α} (h : cellsRising m 0 hi = true) (ha : a < hi) :
    cellsRising (cellsPut m a b) 0 hi = true :=
  cellsRising_insert (cellsRising_erase h) (by simp [cellsGet_erase]) (Nat.zero_le _) ha

theorem cellsErase_subset (m : List (Nat × α)) (a : Nat) : ∀ c ∈ cellsErase m a, c ∈ m ∧ c.1 ≠ a := by
  induction m with
  | nil => simp [cellsErase]
  | cons c rest ih =>
    obtain ⟨j, v⟩ := c
    intro d hd
    simp only [cellsErase] at hd
    split at hd
    · exact ⟨List.mem_cons_of_mem _ (ih d hd).1, (ih d hd).2⟩
    · rcases List.mem_cons.mp hd with rfl | hd
      · exact ⟨List.mem_cons_self, by simp_all [eq_comm]⟩
      · exact ⟨List.mem_cons_of_mem _ (ih d hd).1, (ih d hd).2⟩

theorem mem_cellsInsert (m : List (Nat × α)) (a : Nat) (b : α) : ∀ c ∈ cellsInsert m a b, c = (a, b) ∨ c ∈ m := by
  induction m with
  | nil => simp [cellsInsert]
  | cons c rest ih =>
    obtain ⟨j, v⟩ := c
    intro d hd
    simp only [cellsInsert] at hd
    split at hd
    · simpa using hd
    · rcases List.mem_cons.mp hd with rfl | hd
      · simp
      · rcases ih d hd with h | h <;> simp [h]

/-- The cells of a list after a put: the one put, or an earlier one at another key. -/
theorem mem_cellsPut (m : List (Nat × α)) (a : Nat) (b : α) :
    ∀ c ∈ cellsPut m a b, c = (a, b) ∨ (c ∈ m ∧ c.1 ≠ a) := by
  intro c hc
  rcases mem_cellsInsert _ _ _ c hc with h | h
  · exact .inl h
  · exact .inr (cellsErase_subset _ _ c h)

variable [DecidableEq α] {dflt : α}

/-- The read-after-write law: the key written reads the value, every other key reads as before. -/
theorem cellsRead_write (m : List (Nat × α)) (a k : Nat) (b : α) :
    cellsRead dflt (cellsWrite dflt m a b) k = if k = a then b else cellsRead dflt m k := by
  unfold cellsRead cellsWrite
  split
  · rename_i h
    subst h
    rw [cellsGet_erase]
    split <;> rfl
  · rw [cellsGet_put]
    split <;> rfl

/-- The cells of a list after a write: the one written, or an earlier one. -/
theorem mem_cellsWrite (m : List (Nat × α)) (a : Nat) (b : α) :
    ∀ c ∈ cellsWrite dflt m a b, (c = (a, b) ∧ b ≠ dflt) ∨ (c ∈ m ∧ c.1 ≠ a) := by
  intro c hc
  unfold cellsWrite at hc
  split at hc
  · exact .inr (cellsErase_subset _ _ c hc)
  · exact (mem_cellsPut _ _ _ c hc).imp_left fun h => ⟨h, ‹_›⟩

/-- A write below the bound keeps the canonical form. -/
theorem cellsWf_write {size : Nat} {m : List (Nat × α)} {a : Nat} {b : α} (h : cellsWf dflt size m = true) (ha : a < size) :
    cellsWf dflt size (cellsWrite dflt m a b) = true := by
  simp only [cellsWf, Bool.and_eq_true, List.all_eq_true, decide_eq_true_eq] at h ⊢
  refine ⟨?_, fun c hc => ?_⟩
  · unfold cellsWrite
    split
    · exact cellsRising_erase h.1
    · exact cellsRising_put h.1 ha
  · rcases mem_cellsWrite m a b c hc with ⟨rfl, hb⟩ | hc
    · exact hb
    · exact h.2 c hc.1

/-- The read-after-write law of a memory. -/
theorem Memory.read_write (m : Memory) (a k : Nat) (b : Byte) :
    Memory.read (Memory.write m a b) k = if k = a then b else Memory.read m k :=
  cellsRead_write m a k b

@[simp] theorem Memory.read_write_same (m : Memory) (a : Nat) (b : Byte) : Memory.read (Memory.write m a b) a = b := by
  simp [Memory.read_write]

@[simp] theorem Memory.read_write_other (m : Memory) {a k : Nat} (b : Byte) (h : k ≠ a) :
    Memory.read (Memory.write m a b) k = Memory.read m k := by
  simp [Memory.read_write, h]

@[simp] theorem Memory.read_nil (k : Nat) : Memory.read [] k = unlistedByte := rfl

/-- The cells of a memory after a write: the one written, or an earlier one. -/
theorem Memory.mem_write (m : Memory) (a : Nat) (b : Byte) :
    ∀ c ∈ Memory.write m a b, c = (a, b) ∨ (c ∈ m ∧ c.1 ≠ a) := fun c hc =>
  (mem_cellsWrite m a b c hc).imp_left And.left

/-- A write inside a memory keeps its canonical form. -/
theorem Memory.wf_write {size : Nat} {m : Memory} {a : Nat} {b : Byte} (h : Memory.wf size m = true) (ha : a < size) :
    Memory.wf size (Memory.write m a b) = true :=
  cellsWf_write h ha

/-- Two pixels inside the frame lie at the same place only if they are the same pixel. -/
theorem pixelIndex_inj {row column row' column' : Nat} (h : column < 256) (h' : column' < 256) :
    pixelIndex row column = pixelIndex row' column' ↔ row = row' ∧ column = column' := by
  unfold pixelIndex
  omega

/-- Reading a pixel after plotting one: the same place reads the colour, every other place as before. -/
theorem FrameBuffer.pixel_plot (fb : FrameBuffer) (row column row' column' : Nat) (colour : Colour) :
    FrameBuffer.pixel (FrameBuffer.plot fb row column colour) row' column' =
      if pixelIndex row' column' = pixelIndex row column then colour else FrameBuffer.pixel fb row' column' :=
  cellsRead_write fb _ _ colour

/-- Before anything is plotted every pixel holds the colour the model names (log entry 3). -/
@[simp] theorem FrameBuffer.pixel_nil (row column : Nat) : FrameBuffer.pixel [] row column = unlistedColour := rfl

/-- Plotting a pixel inside the frame keeps the canonical form. -/
theorem FrameBuffer.wf_plot {fb : FrameBuffer} {row column : Nat} {colour : Colour} (h : FrameBuffer.wf fb = true)
    (hr : row < 240) (hc : column < 256) : FrameBuffer.wf (FrameBuffer.plot fb row column colour) = true :=
  cellsWf_write h (by unfold pixelIndex; omega)

end Sys2Proof.Machine
end

