-- ==== Sys2Proof/Laws/Decode.lean ====
section
/-! SUPPORT. The byte-order helpers, and the opcode map against the encoder, byte by byte. -/

namespace Sys2Proof

@[simp] theorem loByte_addrOf (lo hi : Byte) : loByte (addrOf lo hi) = lo := by
  apply BitVec.eq_of_getLsbD_eq
  intro i hi'
  simp only [loByte, addrOf, BitVec.getLsbD_extractLsb', BitVec.getLsbD_append]
  simp [hi']

@[simp] theorem hiByte_addrOf (lo hi : Byte) : hiByte (addrOf lo hi) = hi := by
  apply BitVec.eq_of_getLsbD_eq
  intro i hi'
  simp only [hiByte, addrOf, BitVec.getLsbD_extractLsb', BitVec.getLsbD_append]
  simp [hi']

@[simp] theorem addrOf_loByte_hiByte (a : Addr) : addrOf (loByte a) (hiByte a) = a := by
  apply BitVec.eq_of_getLsbD_eq
  intro i hi'
  simp only [loByte, hiByte, addrOf, BitVec.getLsbD_append, BitVec.getLsbD_extractLsb']
  split
  · simp [*]
  · simp [show i - 8 < 8 by omega, show 8 + (i - 8) = i by omega]

theorem addrOf_toNat (lo hi : Byte) : (addrOf lo hi).toNat = hi.toNat * 256 + lo.toNat := by
  have h := lo.isLt
  simp only [addrOf, BitVec.toNat_append]
  rw [← Nat.shiftLeft_add_eq_or_of_lt h, Nat.shiftLeft_eq]

/-- A format agrees with the encoder at an opcode byte: whatever completes it is well-formed and encodes to that byte and its
operand bytes. -/
def Format.agrees (op : Byte) : Format → Prop
  | .f1 i => i.wellFormed = true ∧ encode i = [op]
  | .f2 mk => ∀ d, (mk d).wellFormed = true ∧ encode (mk d) = [op, d]
  | .f3 mk => ∀ a, (mk a).wellFormed = true ∧ encode (mk a) = [op, loByte a, hiByte a]

/-- The opcode map agrees with the encoder at a byte given by its number. -/
abbrev AgreesAt (n : Nat) : Prop := (opcodeFormat (BitVec.ofNat 8 n)).agrees (BitVec.ofNat 8 n)

theorem opcodeFormat_agrees_0 (n : Nat) (h : n < 32) : AgreesAt (0 + n) := by
  interval_cases n <;> first | exact ⟨rfl, rfl⟩ | exact fun _ => ⟨rfl, rfl⟩

theorem opcodeFormat_agrees_1 (n : Nat) (h : n < 32) : AgreesAt (32 + n) := by
  interval_cases n <;> first | exact ⟨rfl, rfl⟩ | exact fun _ => ⟨rfl, rfl⟩

theorem opcodeFormat_agrees_2 (n : Nat) (h : n < 32) : AgreesAt (64 + n) := by
  interval_cases n <;> first | exact ⟨rfl, rfl⟩ | exact fun _ => ⟨rfl, rfl⟩

theorem opcodeFormat_agrees_3 (n : Nat) (h : n < 32) : AgreesAt (96 + n) := by
  interval_cases n <;> first | exact ⟨rfl, rfl⟩ | exact fun _ => ⟨rfl, rfl⟩

theorem opcodeFormat_agrees_4 (n : Nat) (h : n < 32) : AgreesAt (128 + n) := by
  interval_cases n <;> first | exact ⟨rfl, rfl⟩ | exact fun _ => ⟨rfl, rfl⟩

theorem opcodeFormat_agrees_5 (n : Nat) (h : n < 32) : AgreesAt (160 + n) := by
  interval_cases n <;> first | exact ⟨rfl, rfl⟩ | exact fun _ => ⟨rfl, rfl⟩

theorem opcodeFormat_agrees_6 (n : Nat) (h : n < 32) : AgreesAt (192 + n) := by
  interval_cases n <;> first | exact ⟨rfl, rfl⟩ | exact fun _ => ⟨rfl, rfl⟩

theorem opcodeFormat_agrees_7 (n : Nat) (h : n < 32) : AgreesAt (224 + n) := by
  interval_cases n <;> first | exact ⟨rfl, rfl⟩ | exact fun _ => ⟨rfl, rfl⟩

/-- The opcode map agrees with the encoder at every byte. -/
theorem opcodeFormat_agrees (op : Byte) : (opcodeFormat op).agrees op := by
  have h : AgreesAt op.toNat := by
    have hlt := op.isLt
    obtain ⟨k, n, hn, hk, e⟩ : ∃ k n, n < 32 ∧ k < 8 ∧ op.toNat = 32 * k + n :=
      ⟨op.toNat / 32, op.toNat % 32, by omega, by omega, by omega⟩
    rw [e]
    interval_cases k
    · exact opcodeFormat_agrees_0 n hn
    · exact opcodeFormat_agrees_1 n hn
    · exact opcodeFormat_agrees_2 n hn
    · exact opcodeFormat_agrees_3 n hn
    · exact opcodeFormat_agrees_4 n hn
    · exact opcodeFormat_agrees_5 n hn
    · exact opcodeFormat_agrees_6 n hn
    · exact opcodeFormat_agrees_7 n hn
  rwa [AgreesAt, BitVec.ofNat_toNat, BitVec.setWidth_eq] at h

/-- The byte of the undefined-opcode instruction a format stands for, if it does. -/
def Format.undefinedByte : Format → Option Byte
  | .f1 (.und op) => some op
  | _ => none

theorem opcodeFormat_undefinedByte :
    ∀ n : Fin 256, undefinedOpcodes.contains (BitVec.ofFin n) = true →
      (opcodeFormat (BitVec.ofFin n)).undefinedByte = some (BitVec.ofFin n) := by
  decide +kernel

/-- An undefined opcode byte selects the undefined-opcode instruction. -/
theorem opcodeFormat_undefined {op : Byte} (h : undefinedOpcodes.contains op = true) :
    opcodeFormat op = .f1 (.und op) := by
  have hu := opcodeFormat_undefinedByte op.toFin h
  change (opcodeFormat op).undefinedByte = some op at hu
  unfold Format.undefinedByte at hu
  split at hu <;> simp_all

/-- Decoding the bytes of a format, in one equation a format. -/
theorem decode_f1 {op : Byte} {i : Instr} (h : opcodeFormat op = .f1 i) (rest : List Byte) :
    decode (op :: rest) = .ok i rest := by
  simp [decode, h]

theorem decode_f2 {op : Byte} {mk : Byte → Instr} (h : opcodeFormat op = .f2 mk) (d : Byte) (rest : List Byte) :
    decode (op :: d :: rest) = .ok (mk d) rest := by
  simp [decode, h]

theorem decode_f3 {op : Byte} {mk : Addr → Instr} (h : opcodeFormat op = .f3 mk) (lo hi : Byte) (rest : List Byte) :
    decode (op :: lo :: hi :: rest) = .ok (mk (addrOf lo hi)) rest := by
  simp [decode, h]

end Sys2Proof
end

