-- ==== Sys2Proof/Laws/State.lean ====
section
/-! SUPPORT. One lemma per field per register update, each true by definition. -/

namespace Sys2Proof.Machine

@[simp] theorem State.setA_a (s : State) (v : Byte) : (s.setA v).cpu.a = v := rfl
@[simp] theorem State.setA_x (s : State) (v : Byte) : (s.setA v).cpu.x = s.cpu.x := rfl
@[simp] theorem State.setA_y (s : State) (v : Byte) : (s.setA v).cpu.y = s.cpu.y := rfl
@[simp] theorem State.setA_sp (s : State) (v : Byte) : (s.setA v).cpu.sp = s.cpu.sp := rfl
@[simp] theorem State.setA_pc (s : State) (v : Byte) : (s.setA v).cpu.pc = s.cpu.pc := rfl
@[simp] theorem State.setA_p (s : State) (v : Byte) : (s.setA v).cpu.p = s.cpu.p := rfl
@[simp] theorem State.setA_debt (s : State) (v : Byte) : (s.setA v).cpu.debt = s.cpu.debt := rfl
@[simp] theorem State.setA_cycles (s : State) (v : Byte) : (s.setA v).cpu.cycles = s.cpu.cycles := rfl
@[simp] theorem State.setA_ppu (s : State) (v : Byte) : (s.setA v).ppu = s.ppu := rfl
@[simp] theorem State.setA_ram (s : State) (v : Byte) : (s.setA v).ram = s.ram := rfl
@[simp] theorem State.setA_dma (s : State) (v : Byte) : (s.setA v).dma = s.dma := rfl
@[simp] theorem State.setA_ctrlIn (s : State) (v : Byte) : (s.setA v).ctrlIn = s.ctrlIn := rfl
@[simp] theorem State.setA_ctrlShift (s : State) (v : Byte) : (s.setA v).ctrlShift = s.ctrlShift := rfl
@[simp] theorem State.setA_cart (s : State) (v : Byte) : (s.setA v).cart = s.cart := rfl
@[simp] theorem State.setA_nmiPending (s : State) (v : Byte) : (s.setA v).nmiPending = s.nmiPending := rfl
@[simp] theorem State.setA_nmiArmed (s : State) (v : Byte) : (s.setA v).nmiArmed = s.nmiArmed := rfl
@[simp] theorem State.setA_master (s : State) (v : Byte) : (s.setA v).master = s.master := rfl
@[simp] theorem State.setA_log (s : State) (v : Byte) : (s.setA v).log = s.log := rfl

@[simp] theorem State.setX_a (s : State) (v : Byte) : (s.setX v).cpu.a = s.cpu.a := rfl
@[simp] theorem State.setX_x (s : State) (v : Byte) : (s.setX v).cpu.x = v := rfl
@[simp] theorem State.setX_y (s : State) (v : Byte) : (s.setX v).cpu.y = s.cpu.y := rfl
@[simp] theorem State.setX_sp (s : State) (v : Byte) : (s.setX v).cpu.sp = s.cpu.sp := rfl
@[simp] theorem State.setX_pc (s : State) (v : Byte) : (s.setX v).cpu.pc = s.cpu.pc := rfl
@[simp] theorem State.setX_p (s : State) (v : Byte) : (s.setX v).cpu.p = s.cpu.p := rfl
@[simp] theorem State.setX_debt (s : State) (v : Byte) : (s.setX v).cpu.debt = s.cpu.debt := rfl
@[simp] theorem State.setX_cycles (s : State) (v : Byte) : (s.setX v).cpu.cycles = s.cpu.cycles := rfl
@[simp] theorem State.setX_ppu (s : State) (v : Byte) : (s.setX v).ppu = s.ppu := rfl
@[simp] theorem State.setX_ram (s : State) (v : Byte) : (s.setX v).ram = s.ram := rfl
@[simp] theorem State.setX_dma (s : State) (v : Byte) : (s.setX v).dma = s.dma := rfl
@[simp] theorem State.setX_ctrlIn (s : State) (v : Byte) : (s.setX v).ctrlIn = s.ctrlIn := rfl
@[simp] theorem State.setX_ctrlShift (s : State) (v : Byte) : (s.setX v).ctrlShift = s.ctrlShift := rfl
@[simp] theorem State.setX_cart (s : State) (v : Byte) : (s.setX v).cart = s.cart := rfl
@[simp] theorem State.setX_nmiPending (s : State) (v : Byte) : (s.setX v).nmiPending = s.nmiPending := rfl
@[simp] theorem State.setX_nmiArmed (s : State) (v : Byte) : (s.setX v).nmiArmed = s.nmiArmed := rfl
@[simp] theorem State.setX_master (s : State) (v : Byte) : (s.setX v).master = s.master := rfl
@[simp] theorem State.setX_log (s : State) (v : Byte) : (s.setX v).log = s.log := rfl

@[simp] theorem State.setY_a (s : State) (v : Byte) : (s.setY v).cpu.a = s.cpu.a := rfl
@[simp] theorem State.setY_x (s : State) (v : Byte) : (s.setY v).cpu.x = s.cpu.x := rfl
@[simp] theorem State.setY_y (s : State) (v : Byte) : (s.setY v).cpu.y = v := rfl
@[simp] theorem State.setY_sp (s : State) (v : Byte) : (s.setY v).cpu.sp = s.cpu.sp := rfl
@[simp] theorem State.setY_pc (s : State) (v : Byte) : (s.setY v).cpu.pc = s.cpu.pc := rfl
@[simp] theorem State.setY_p (s : State) (v : Byte) : (s.setY v).cpu.p = s.cpu.p := rfl
@[simp] theorem State.setY_debt (s : State) (v : Byte) : (s.setY v).cpu.debt = s.cpu.debt := rfl
@[simp] theorem State.setY_cycles (s : State) (v : Byte) : (s.setY v).cpu.cycles = s.cpu.cycles := rfl
@[simp] theorem State.setY_ppu (s : State) (v : Byte) : (s.setY v).ppu = s.ppu := rfl
@[simp] theorem State.setY_ram (s : State) (v : Byte) : (s.setY v).ram = s.ram := rfl
@[simp] theorem State.setY_dma (s : State) (v : Byte) : (s.setY v).dma = s.dma := rfl
@[simp] theorem State.setY_ctrlIn (s : State) (v : Byte) : (s.setY v).ctrlIn = s.ctrlIn := rfl
@[simp] theorem State.setY_ctrlShift (s : State) (v : Byte) : (s.setY v).ctrlShift = s.ctrlShift := rfl
@[simp] theorem State.setY_cart (s : State) (v : Byte) : (s.setY v).cart = s.cart := rfl
@[simp] theorem State.setY_nmiPending (s : State) (v : Byte) : (s.setY v).nmiPending = s.nmiPending := rfl
@[simp] theorem State.setY_nmiArmed (s : State) (v : Byte) : (s.setY v).nmiArmed = s.nmiArmed := rfl
@[simp] theorem State.setY_master (s : State) (v : Byte) : (s.setY v).master = s.master := rfl
@[simp] theorem State.setY_log (s : State) (v : Byte) : (s.setY v).log = s.log := rfl

@[simp] theorem State.setSp_a (s : State) (v : Byte) : (s.setSp v).cpu.a = s.cpu.a := rfl
@[simp] theorem State.setSp_x (s : State) (v : Byte) : (s.setSp v).cpu.x = s.cpu.x := rfl
@[simp] theorem State.setSp_y (s : State) (v : Byte) : (s.setSp v).cpu.y = s.cpu.y := rfl
@[simp] theorem State.setSp_sp (s : State) (v : Byte) : (s.setSp v).cpu.sp = v := rfl
@[simp] theorem State.setSp_pc (s : State) (v : Byte) : (s.setSp v).cpu.pc = s.cpu.pc := rfl
@[simp] theorem State.setSp_p (s : State) (v : Byte) : (s.setSp v).cpu.p = s.cpu.p := rfl
@[simp] theorem State.setSp_debt (s : State) (v : Byte) : (s.setSp v).cpu.debt = s.cpu.debt := rfl
@[simp] theorem State.setSp_cycles (s : State) (v : Byte) : (s.setSp v).cpu.cycles = s.cpu.cycles := rfl
@[simp] theorem State.setSp_ppu (s : State) (v : Byte) : (s.setSp v).ppu = s.ppu := rfl
@[simp] theorem State.setSp_ram (s : State) (v : Byte) : (s.setSp v).ram = s.ram := rfl
@[simp] theorem State.setSp_dma (s : State) (v : Byte) : (s.setSp v).dma = s.dma := rfl
@[simp] theorem State.setSp_ctrlIn (s : State) (v : Byte) : (s.setSp v).ctrlIn = s.ctrlIn := rfl
@[simp] theorem State.setSp_ctrlShift (s : State) (v : Byte) : (s.setSp v).ctrlShift = s.ctrlShift := rfl
@[simp] theorem State.setSp_cart (s : State) (v : Byte) : (s.setSp v).cart = s.cart := rfl
@[simp] theorem State.setSp_nmiPending (s : State) (v : Byte) : (s.setSp v).nmiPending = s.nmiPending := rfl
@[simp] theorem State.setSp_nmiArmed (s : State) (v : Byte) : (s.setSp v).nmiArmed = s.nmiArmed := rfl
@[simp] theorem State.setSp_master (s : State) (v : Byte) : (s.setSp v).master = s.master := rfl
@[simp] theorem State.setSp_log (s : State) (v : Byte) : (s.setSp v).log = s.log := rfl

@[simp] theorem State.setPc_a (s : State) (v : Addr) : (s.setPc v).cpu.a = s.cpu.a := rfl
@[simp] theorem State.setPc_x (s : State) (v : Addr) : (s.setPc v).cpu.x = s.cpu.x := rfl
@[simp] theorem State.setPc_y (s : State) (v : Addr) : (s.setPc v).cpu.y = s.cpu.y := rfl
@[simp] theorem State.setPc_sp (s : State) (v : Addr) : (s.setPc v).cpu.sp = s.cpu.sp := rfl
@[simp] theorem State.setPc_pc (s : State) (v : Addr) : (s.setPc v).cpu.pc = v := rfl
@[simp] theorem State.setPc_p (s : State) (v : Addr) : (s.setPc v).cpu.p = s.cpu.p := rfl
@[simp] theorem State.setPc_debt (s : State) (v : Addr) : (s.setPc v).cpu.debt = s.cpu.debt := rfl
@[simp] theorem State.setPc_cycles (s : State) (v : Addr) : (s.setPc v).cpu.cycles = s.cpu.cycles := rfl
@[simp] theorem State.setPc_ppu (s : State) (v : Addr) : (s.setPc v).ppu = s.ppu := rfl
@[simp] theorem State.setPc_ram (s : State) (v : Addr) : (s.setPc v).ram = s.ram := rfl
@[simp] theorem State.setPc_dma (s : State) (v : Addr) : (s.setPc v).dma = s.dma := rfl
@[simp] theorem State.setPc_ctrlIn (s : State) (v : Addr) : (s.setPc v).ctrlIn = s.ctrlIn := rfl
@[simp] theorem State.setPc_ctrlShift (s : State) (v : Addr) : (s.setPc v).ctrlShift = s.ctrlShift := rfl
@[simp] theorem State.setPc_cart (s : State) (v : Addr) : (s.setPc v).cart = s.cart := rfl
@[simp] theorem State.setPc_nmiPending (s : State) (v : Addr) : (s.setPc v).nmiPending = s.nmiPending := rfl
@[simp] theorem State.setPc_nmiArmed (s : State) (v : Addr) : (s.setPc v).nmiArmed = s.nmiArmed := rfl
@[simp] theorem State.setPc_master (s : State) (v : Addr) : (s.setPc v).master = s.master := rfl
@[simp] theorem State.setPc_log (s : State) (v : Addr) : (s.setPc v).log = s.log := rfl

@[simp] theorem State.setP_a (s : State) (v : Byte) : (s.setP v).cpu.a = s.cpu.a := rfl
@[simp] theorem State.setP_x (s : State) (v : Byte) : (s.setP v).cpu.x = s.cpu.x := rfl
@[simp] theorem State.setP_y (s : State) (v : Byte) : (s.setP v).cpu.y = s.cpu.y := rfl
@[simp] theorem State.setP_sp (s : State) (v : Byte) : (s.setP v).cpu.sp = s.cpu.sp := rfl
@[simp] theorem State.setP_pc (s : State) (v : Byte) : (s.setP v).cpu.pc = s.cpu.pc := rfl
@[simp] theorem State.setP_p (s : State) (v : Byte) : (s.setP v).cpu.p = v := rfl
@[simp] theorem State.setP_debt (s : State) (v : Byte) : (s.setP v).cpu.debt = s.cpu.debt := rfl
@[simp] theorem State.setP_cycles (s : State) (v : Byte) : (s.setP v).cpu.cycles = s.cpu.cycles := rfl
@[simp] theorem State.setP_ppu (s : State) (v : Byte) : (s.setP v).ppu = s.ppu := rfl
@[simp] theorem State.setP_ram (s : State) (v : Byte) : (s.setP v).ram = s.ram := rfl
@[simp] theorem State.setP_dma (s : State) (v : Byte) : (s.setP v).dma = s.dma := rfl
@[simp] theorem State.setP_ctrlIn (s : State) (v : Byte) : (s.setP v).ctrlIn = s.ctrlIn := rfl
@[simp] theorem State.setP_ctrlShift (s : State) (v : Byte) : (s.setP v).ctrlShift = s.ctrlShift := rfl
@[simp] theorem State.setP_cart (s : State) (v : Byte) : (s.setP v).cart = s.cart := rfl
@[simp] theorem State.setP_nmiPending (s : State) (v : Byte) : (s.setP v).nmiPending = s.nmiPending := rfl
@[simp] theorem State.setP_nmiArmed (s : State) (v : Byte) : (s.setP v).nmiArmed = s.nmiArmed := rfl
@[simp] theorem State.setP_master (s : State) (v : Byte) : (s.setP v).master = s.master := rfl
@[simp] theorem State.setP_log (s : State) (v : Byte) : (s.setP v).log = s.log := rfl

@[simp] theorem State.setZN_a (s : State) (r : Byte) : (s.setZN r).cpu.a = s.cpu.a := rfl
@[simp] theorem State.setZN_x (s : State) (r : Byte) : (s.setZN r).cpu.x = s.cpu.x := rfl
@[simp] theorem State.setZN_y (s : State) (r : Byte) : (s.setZN r).cpu.y = s.cpu.y := rfl
@[simp] theorem State.setZN_sp (s : State) (r : Byte) : (s.setZN r).cpu.sp = s.cpu.sp := rfl
@[simp] theorem State.setZN_pc (s : State) (r : Byte) : (s.setZN r).cpu.pc = s.cpu.pc := rfl
@[simp] theorem State.setZN_p (s : State) (r : Byte) : (s.setZN r).cpu.p = Machine.setZN r s.cpu.p := rfl
@[simp] theorem State.setZN_debt (s : State) (r : Byte) : (s.setZN r).cpu.debt = s.cpu.debt := rfl
@[simp] theorem State.setZN_cycles (s : State) (r : Byte) : (s.setZN r).cpu.cycles = s.cpu.cycles := rfl
@[simp] theorem State.setZN_ppu (s : State) (r : Byte) : (s.setZN r).ppu = s.ppu := rfl
@[simp] theorem State.setZN_ram (s : State) (r : Byte) : (s.setZN r).ram = s.ram := rfl
@[simp] theorem State.setZN_dma (s : State) (r : Byte) : (s.setZN r).dma = s.dma := rfl
@[simp] theorem State.setZN_ctrlIn (s : State) (r : Byte) : (s.setZN r).ctrlIn = s.ctrlIn := rfl
@[simp] theorem State.setZN_ctrlShift (s : State) (r : Byte) : (s.setZN r).ctrlShift = s.ctrlShift := rfl
@[simp] theorem State.setZN_cart (s : State) (r : Byte) : (s.setZN r).cart = s.cart := rfl
@[simp] theorem State.setZN_nmiPending (s : State) (r : Byte) : (s.setZN r).nmiPending = s.nmiPending := rfl
@[simp] theorem State.setZN_nmiArmed (s : State) (r : Byte) : (s.setZN r).nmiArmed = s.nmiArmed := rfl
@[simp] theorem State.setZN_master (s : State) (r : Byte) : (s.setZN r).master = s.master := rfl
@[simp] theorem State.setZN_log (s : State) (r : Byte) : (s.setZN r).log = s.log := rfl

@[simp] theorem State.setFlag_a (s : State) (f : Flag) (b : Bool) : (s.setFlag f b).cpu.a = s.cpu.a := rfl
@[simp] theorem State.setFlag_x (s : State) (f : Flag) (b : Bool) : (s.setFlag f b).cpu.x = s.cpu.x := rfl
@[simp] theorem State.setFlag_y (s : State) (f : Flag) (b : Bool) : (s.setFlag f b).cpu.y = s.cpu.y := rfl
@[simp] theorem State.setFlag_sp (s : State) (f : Flag) (b : Bool) : (s.setFlag f b).cpu.sp = s.cpu.sp := rfl
@[simp] theorem State.setFlag_pc (s : State) (f : Flag) (b : Bool) : (s.setFlag f b).cpu.pc = s.cpu.pc := rfl
@[simp] theorem State.setFlag_p (s : State) (f : Flag) (b : Bool) : (s.setFlag f b).cpu.p = Machine.setFlag f b s.cpu.p := rfl
@[simp] theorem State.setFlag_debt (s : State) (f : Flag) (b : Bool) : (s.setFlag f b).cpu.debt = s.cpu.debt := rfl
@[simp] theorem State.setFlag_cycles (s : State) (f : Flag) (b : Bool) : (s.setFlag f b).cpu.cycles = s.cpu.cycles := rfl
@[simp] theorem State.setFlag_ppu (s : State) (f : Flag) (b : Bool) : (s.setFlag f b).ppu = s.ppu := rfl
@[simp] theorem State.setFlag_ram (s : State) (f : Flag) (b : Bool) : (s.setFlag f b).ram = s.ram := rfl
@[simp] theorem State.setFlag_dma (s : State) (f : Flag) (b : Bool) : (s.setFlag f b).dma = s.dma := rfl
@[simp] theorem State.setFlag_ctrlIn (s : State) (f : Flag) (b : Bool) : (s.setFlag f b).ctrlIn = s.ctrlIn := rfl
@[simp] theorem State.setFlag_ctrlShift (s : State) (f : Flag) (b : Bool) : (s.setFlag f b).ctrlShift = s.ctrlShift := rfl
@[simp] theorem State.setFlag_cart (s : State) (f : Flag) (b : Bool) : (s.setFlag f b).cart = s.cart := rfl
@[simp] theorem State.setFlag_nmiPending (s : State) (f : Flag) (b : Bool) : (s.setFlag f b).nmiPending = s.nmiPending := rfl
@[simp] theorem State.setFlag_nmiArmed (s : State) (f : Flag) (b : Bool) : (s.setFlag f b).nmiArmed = s.nmiArmed := rfl
@[simp] theorem State.setFlag_master (s : State) (f : Flag) (b : Bool) : (s.setFlag f b).master = s.master := rfl
@[simp] theorem State.setFlag_log (s : State) (f : Flag) (b : Bool) : (s.setFlag f b).log = s.log := rfl

@[simp] theorem State.addDebt_a (s : State) (n : Nat) : (s.addDebt n).cpu.a = s.cpu.a := rfl
@[simp] theorem State.addDebt_x (s : State) (n : Nat) : (s.addDebt n).cpu.x = s.cpu.x := rfl
@[simp] theorem State.addDebt_y (s : State) (n : Nat) : (s.addDebt n).cpu.y = s.cpu.y := rfl
@[simp] theorem State.addDebt_sp (s : State) (n : Nat) : (s.addDebt n).cpu.sp = s.cpu.sp := rfl
@[simp] theorem State.addDebt_pc (s : State) (n : Nat) : (s.addDebt n).cpu.pc = s.cpu.pc := rfl
@[simp] theorem State.addDebt_p (s : State) (n : Nat) : (s.addDebt n).cpu.p = s.cpu.p := rfl
@[simp] theorem State.addDebt_debt (s : State) (n : Nat) : (s.addDebt n).cpu.debt = s.cpu.debt + n := rfl
@[simp] theorem State.addDebt_cycles (s : State) (n : Nat) : (s.addDebt n).cpu.cycles = s.cpu.cycles := rfl
@[simp] theorem State.addDebt_ppu (s : State) (n : Nat) : (s.addDebt n).ppu = s.ppu := rfl
@[simp] theorem State.addDebt_ram (s : State) (n : Nat) : (s.addDebt n).ram = s.ram := rfl
@[simp] theorem State.addDebt_dma (s : State) (n : Nat) : (s.addDebt n).dma = s.dma := rfl
@[simp] theorem State.addDebt_ctrlIn (s : State) (n : Nat) : (s.addDebt n).ctrlIn = s.ctrlIn := rfl
@[simp] theorem State.addDebt_ctrlShift (s : State) (n : Nat) : (s.addDebt n).ctrlShift = s.ctrlShift := rfl
@[simp] theorem State.addDebt_cart (s : State) (n : Nat) : (s.addDebt n).cart = s.cart := rfl
@[simp] theorem State.addDebt_nmiPending (s : State) (n : Nat) : (s.addDebt n).nmiPending = s.nmiPending := rfl
@[simp] theorem State.addDebt_nmiArmed (s : State) (n : Nat) : (s.addDebt n).nmiArmed = s.nmiArmed := rfl
@[simp] theorem State.addDebt_master (s : State) (n : Nat) : (s.addDebt n).master = s.master := rfl
@[simp] theorem State.addDebt_log (s : State) (n : Nat) : (s.addDebt n).log = s.log := rfl

@[simp] theorem State.cost_a (s : State) (n : Nat) : (s.cost n).cpu.a = s.cpu.a := rfl
@[simp] theorem State.cost_x (s : State) (n : Nat) : (s.cost n).cpu.x = s.cpu.x := rfl
@[simp] theorem State.cost_y (s : State) (n : Nat) : (s.cost n).cpu.y = s.cpu.y := rfl
@[simp] theorem State.cost_sp (s : State) (n : Nat) : (s.cost n).cpu.sp = s.cpu.sp := rfl
@[simp] theorem State.cost_pc (s : State) (n : Nat) : (s.cost n).cpu.pc = s.cpu.pc := rfl
@[simp] theorem State.cost_p (s : State) (n : Nat) : (s.cost n).cpu.p = s.cpu.p := rfl
@[simp] theorem State.cost_debt (s : State) (n : Nat) : (s.cost n).cpu.debt = s.cpu.debt + (n - 1) := rfl
@[simp] theorem State.cost_cycles (s : State) (n : Nat) : (s.cost n).cpu.cycles = s.cpu.cycles := rfl
@[simp] theorem State.cost_ppu (s : State) (n : Nat) : (s.cost n).ppu = s.ppu := rfl
@[simp] theorem State.cost_ram (s : State) (n : Nat) : (s.cost n).ram = s.ram := rfl
@[simp] theorem State.cost_dma (s : State) (n : Nat) : (s.cost n).dma = s.dma := rfl
@[simp] theorem State.cost_ctrlIn (s : State) (n : Nat) : (s.cost n).ctrlIn = s.ctrlIn := rfl
@[simp] theorem State.cost_ctrlShift (s : State) (n : Nat) : (s.cost n).ctrlShift = s.ctrlShift := rfl
@[simp] theorem State.cost_cart (s : State) (n : Nat) : (s.cost n).cart = s.cart := rfl
@[simp] theorem State.cost_nmiPending (s : State) (n : Nat) : (s.cost n).nmiPending = s.nmiPending := rfl
@[simp] theorem State.cost_nmiArmed (s : State) (n : Nat) : (s.cost n).nmiArmed = s.nmiArmed := rfl
@[simp] theorem State.cost_master (s : State) (n : Nat) : (s.cost n).master = s.master := rfl
@[simp] theorem State.cost_log (s : State) (n : Nat) : (s.cost n).log = s.log := rfl

@[simp] theorem State.record_a (s : State) (e : LogEvent) : (s.record e).cpu.a = s.cpu.a := rfl
@[simp] theorem State.record_x (s : State) (e : LogEvent) : (s.record e).cpu.x = s.cpu.x := rfl
@[simp] theorem State.record_y (s : State) (e : LogEvent) : (s.record e).cpu.y = s.cpu.y := rfl
@[simp] theorem State.record_sp (s : State) (e : LogEvent) : (s.record e).cpu.sp = s.cpu.sp := rfl
@[simp] theorem State.record_pc (s : State) (e : LogEvent) : (s.record e).cpu.pc = s.cpu.pc := rfl
@[simp] theorem State.record_p (s : State) (e : LogEvent) : (s.record e).cpu.p = s.cpu.p := rfl
@[simp] theorem State.record_debt (s : State) (e : LogEvent) : (s.record e).cpu.debt = s.cpu.debt := rfl
@[simp] theorem State.record_cycles (s : State) (e : LogEvent) : (s.record e).cpu.cycles = s.cpu.cycles := rfl
@[simp] theorem State.record_ppu (s : State) (e : LogEvent) : (s.record e).ppu = s.ppu := rfl
@[simp] theorem State.record_ram (s : State) (e : LogEvent) : (s.record e).ram = s.ram := rfl
@[simp] theorem State.record_dma (s : State) (e : LogEvent) : (s.record e).dma = s.dma := rfl
@[simp] theorem State.record_ctrlIn (s : State) (e : LogEvent) : (s.record e).ctrlIn = s.ctrlIn := rfl
@[simp] theorem State.record_ctrlShift (s : State) (e : LogEvent) : (s.record e).ctrlShift = s.ctrlShift := rfl
@[simp] theorem State.record_cart (s : State) (e : LogEvent) : (s.record e).cart = s.cart := rfl
@[simp] theorem State.record_nmiPending (s : State) (e : LogEvent) : (s.record e).nmiPending = s.nmiPending := rfl
@[simp] theorem State.record_nmiArmed (s : State) (e : LogEvent) : (s.record e).nmiArmed = s.nmiArmed := rfl
@[simp] theorem State.record_master (s : State) (e : LogEvent) : (s.record e).master = s.master := rfl
@[simp] theorem State.record_log (s : State) (e : LogEvent) : (s.record e).log = e :: s.log := rfl

end Sys2Proof.Machine
end

