-- ==== Sys2Proof/Laws/Bus.lean ====
section
/-! SUPPORT. What a bus read and a bus write can do, said once: which part of the machine answers an address, what an access
changes, and that the stack and page-0 accesses are plain RAM accesses. -/

namespace Sys2Proof.Machine

/-! ## Addresses in pages 0 and 1 -/

@[simp] theorem zeroPage_toNat (d : Byte) : (zeroPage d).toNat = d.toNat := by
  simp [zeroPage, addrOf_toNat]

@[simp] theorem stackAddr_toNat (sp : Byte) : (stackAddr sp).toNat = 256 + sp.toNat := by
  simp [stackAddr, addrOf_toNat]

/-! ## Who answers an address -/

theorem cartCpuRead_low (c : Option Cartridge) {a : Addr} (h : a.toNat < 0x8000) : cartCpuRead c a = none := by
  cases c with
  | none => rfl
  | some c => simp [cartCpuRead, nromCpu, Nat.not_le.mpr h]

theorem cartCpuWrite_low (c : Option Cartridge) {a : Addr} (h : a.toNat < 0x8000) : cartCpuWrite c a = false := by
  cases c with
  | none => rfl
  | some c => simp [cartCpuWrite, nromCpu, Nat.not_le.mpr h]

/-- The cartridge claims reads and writes of the same addresses (R91). -/
theorem cartCpuWrite_eq (c : Option Cartridge) (a : Addr) : cartCpuWrite c a = (cartCpuRead c a).isSome := by
  cases c with
  | none => rfl
  | some c => simp [cartCpuRead, cartCpuWrite]

theorem busRegion_ram {a : Addr} (h : a.toNat ≤ 0x1FFF) : busRegion a = .ram (a.toNat % 0x0800) := by
  simp [busRegion, h]

theorem busRegion_ppu {a : Addr} (h : 0x2000 ≤ a.toNat) (h' : a.toNat ≤ 0x3FFF) :
    busRegion a = .ppuRegister (a.toNat % 8) := by
  simp [busRegion, h', show ¬a.toNat ≤ 0x1FFF by omega]

/-- The cases of the address map below the cartridge. -/
theorem busRegion_cases (a : Addr) :
    (a.toNat ≤ 0x1FFF ∧ busRegion a = .ram (a.toNat % 0x0800)) ∨
    (0x2000 ≤ a.toNat ∧ a.toNat ≤ 0x3FFF ∧ busRegion a = .ppuRegister (a.toNat % 8)) ∨
    (a = 0x4014#16 ∧ busRegion a = .oamDma) ∨ (a = 0x4016#16 ∧ busRegion a = .controller 0) ∨
    (a = 0x4017#16 ∧ busRegion a = .controller 1) ∨
    (0x4000 ≤ a.toNat ∧ a ≠ 0x4014#16 ∧ a ≠ 0x4016#16 ∧ a ≠ 0x4017#16 ∧ busRegion a = .unclaimed) := by
  unfold busRegion
  split
  · exact .inl ⟨‹_›, rfl⟩
  · split
    · exact .inr (.inl ⟨by omega, ‹_›, rfl⟩)
    · split
      · exact .inr (.inr (.inl ⟨‹_›, rfl⟩))
      · split
        · exact .inr (.inr (.inr (.inl ⟨‹_›, rfl⟩)))
        · split
          · exact .inr (.inr (.inr (.inr (.inl ⟨‹_›, rfl⟩))))
          · exact .inr (.inr (.inr (.inr (.inr ⟨by omega, ‹_›, ‹_›, ‹_›, rfl⟩))))

/-- A RAM address reads the mirrored byte and changes nothing (R78). -/
theorem memRead_ram {a : Addr} (h : a.toNat ≤ 0x1FFF) (s : State) :
    memRead a s = (Memory.read s.ram (a.toNat % 0x0800), s) := by
  simp [memRead, cartCpuRead_low s.cart (show a.toNat < 0x8000 by omega), busRegion_ram h]

/-- A RAM address writes the mirrored byte and changes nothing else (R78). -/
theorem memWrite_ram {a : Addr} (h : a.toNat ≤ 0x1FFF) (v : Byte) (s : State) :
    memWrite a v s = { s with ram := Memory.write s.ram (a.toNat % 0x0800) v } := by
  simp [memWrite, cartCpuWrite_low s.cart (show a.toNat < 0x8000 by omega), busRegion_ram h]

@[simp] theorem memRead_zeroPage (d : Byte) (s : State) : memRead (zeroPage d) s = (Memory.read s.ram d.toNat, s) := by
  have h := d.isLt
  rw [memRead_ram (by simp; omega), zeroPage_toNat, Nat.mod_eq_of_lt (by omega)]

@[simp] theorem memRead_stackAddr (sp : Byte) (s : State) :
    memRead (stackAddr sp) s = (Memory.read s.ram (256 + sp.toNat), s) := by
  have h := sp.isLt
  rw [memRead_ram (by simp; omega), stackAddr_toNat, Nat.mod_eq_of_lt (by omega)]

@[simp] theorem memWrite_stackAddr (sp v : Byte) (s : State) :
    memWrite (stackAddr sp) v s = { s with ram := Memory.write s.ram (256 + sp.toNat) v } := by
  have h := sp.isLt
  rw [memWrite_ram (by simp; omega), stackAddr_toNat, Nat.mod_eq_of_lt (by omega)]

/-! ## What a read can change -/

theorem onlyReadEffects_refl (s : State) : onlyReadEffects s s := rfl

theorem onlyReadEffects_trans {s t u : State} (h : onlyReadEffects s t) (h' : onlyReadEffects t u) :
    onlyReadEffects s u := by
  unfold onlyReadEffects at *
  rw [h', h]

theorem ppuRegRead_effects (r : Nat) (s : State) : onlyReadEffects s (ppuRegRead r s).2 := by
  unfold ppuRegRead
  split <;> rfl

/-- A bus read changes nothing but what R74 lists, and the log. -/
theorem memRead_effects (a : Addr) (s : State) : onlyReadEffects s (memRead a s).2 := by
  unfold memRead
  split
  · rfl
  · split
    · rfl
    · exact ppuRegRead_effects _ s
    · rfl
    · rfl
    · rfl

@[simp] theorem memRead_cpu (a : Addr) (s : State) : (memRead a s).2.cpu = s.cpu := by
  rw [memRead_effects a s]

@[simp] theorem memRead_ramField (a : Addr) (s : State) : (memRead a s).2.ram = s.ram := by
  rw [memRead_effects a s]

@[simp] theorem memRead_dma (a : Addr) (s : State) : (memRead a s).2.dma = s.dma := by
  rw [memRead_effects a s]

@[simp] theorem memRead_ctrlIn (a : Addr) (s : State) : (memRead a s).2.ctrlIn = s.ctrlIn := by
  rw [memRead_effects a s]

@[simp] theorem memRead_cart (a : Addr) (s : State) : (memRead a s).2.cart = s.cart := by
  rw [memRead_effects a s]

@[simp] theorem memRead_nmiPending (a : Addr) (s : State) : (memRead a s).2.nmiPending = s.nmiPending := by
  rw [memRead_effects a s]

@[simp] theorem memRead_nmiArmed (a : Addr) (s : State) : (memRead a s).2.nmiArmed = s.nmiArmed := by
  rw [memRead_effects a s]

@[simp] theorem memRead_master (a : Addr) (s : State) : (memRead a s).2.master = s.master := by
  rw [memRead_effects a s]

/-- The PPU after a bus read: only four of its fields can differ. -/
theorem memRead_ppu (a : Addr) (s : State) :
    (memRead a s).2.ppu =
      { s.ppu with
        verticalBlank := (memRead a s).2.ppu.verticalBlank
        w := (memRead a s).2.ppu.w
        v := (memRead a s).2.ppu.v
        dataBuf := (memRead a s).2.ppu.dataBuf } := by
  have h := congrArg State.ppu (memRead_effects a s)
  exact h

/-- A read of an address that R74 does not list changes nothing but the log. -/
theorem memRead_quiet {a : Addr} (h : readSideEffect a = false) (s : State) :
    (memRead a s).2 = { s with log := (memRead a s).2.log } := by
  unfold memRead
  split
  · rfl
  · rcases busRegion_cases a with ⟨_, hr⟩ | ⟨h1, h2, hr⟩ | ⟨_, hr⟩ | ⟨rfl, hr⟩ | ⟨rfl, hr⟩ | ⟨_, _, _, _, hr⟩ <;> rw [hr]
    · simp only [readSideEffect, Bool.or_eq_false_iff, Bool.and_eq_false_iff, decide_eq_false_iff_not,
        beq_eq_false_iff_ne] at h
      have h2' : a.toNat % 8 ≠ 2 := by rcases h with ⟨⟨(h | h) | ⟨h, _⟩, _⟩, _⟩ <;> omega
      have h7' : a.toNat % 8 ≠ 7 := by rcases h with ⟨⟨(h | h) | ⟨_, h⟩, _⟩, _⟩ <;> omega
      simp only [ppuRegRead]
      split <;> first | rfl | (exfalso; omega)
    · rfl
    · simp [readSideEffect] at h
    · simp [readSideEffect] at h
    · rfl

/-- The value of a plain address depends only on RAM and the cartridge. -/
theorem busByte_congr {a : Addr} (ha : deviceAddr a = false) {s t : State} (hr : t.ram = s.ram) (hc : t.cart = s.cart) :
    busByte a t = busByte a s := by
  unfold busByte memRead
  rw [hc]
  split
  · rfl
  · rcases busRegion_cases a with ⟨_, h⟩ | ⟨h1, h2, h⟩ | ⟨_, h⟩ | ⟨rfl, h⟩ | ⟨rfl, h⟩ | ⟨_, _, _, _, h⟩ <;> rw [h]
    · rw [hr]
    · simp [deviceAddr, h1, h2] at ha
    · simp [deviceAddr] at ha
    · simp [deviceAddr] at ha

/-- The value of any address depends only on RAM, the cartridge, the PPU and the shift registers. -/
theorem busByte_congr_all (a : Addr) {s t : State} (hr : t.ram = s.ram) (hc : t.cart = s.cart) (hp : t.ppu = s.ppu)
    (hs : t.ctrlShift = s.ctrlShift) : busByte a t = busByte a s := by
  unfold busByte memRead
  rw [hc]
  split
  · rfl
  · split
    · rw [hr]
    · simp only [ppuRegRead, hp, hc]
      split <;> rfl
    · simp only [controllerRead, hs]
    · rfl
    · rfl

/-! ## What a write can change -/

theorem ppuWrite_frame (a : Addr) (x : Byte) (s : State) :
    ppuWrite a x s = { s with ppu := (ppuWrite a x s).ppu, cart := (ppuWrite a x s).cart } := by
  unfold ppuWrite
  simp only
  split
  · split <;> rfl
  · split <;> rfl

theorem ppuRegWrite_frame (r : Nat) (x : Byte) (s : State) :
    ppuRegWrite r x s = { s with ppu := (ppuRegWrite r x s).ppu, cart := (ppuRegWrite r x s).cart } := by
  unfold ppuRegWrite
  split <;> first | rfl | skip
  unfold ppuDataWrite
  simp only
  rw [ppuWrite_frame]

/-- A bus write changes the PPU, the cartridge's CHR, RAM, the DMA registers, the shift registers or the log; never a CPU
register, the button bytes, the NMI signal or the master counter. -/
theorem memWrite_frame (a : Addr) (v : Byte) (s : State) :
    memWrite a v s =
      { s with
        ppu := (memWrite a v s).ppu
        ram := (memWrite a v s).ram
        dma := (memWrite a v s).dma
        ctrlShift := (memWrite a v s).ctrlShift
        cart := (memWrite a v s).cart
        log := (memWrite a v s).log } := by
  unfold memWrite
  split
  · rfl
  · split <;> first | rfl | skip
    rw [ppuRegWrite_frame]

@[simp] theorem memWrite_cpu (a : Addr) (v : Byte) (s : State) : (memWrite a v s).cpu = s.cpu := by
  rw [memWrite_frame]

@[simp] theorem memWrite_ctrlIn (a : Addr) (v : Byte) (s : State) : (memWrite a v s).ctrlIn = s.ctrlIn := by
  rw [memWrite_frame]

@[simp] theorem memWrite_nmiPending (a : Addr) (v : Byte) (s : State) : (memWrite a v s).nmiPending = s.nmiPending := by
  rw [memWrite_frame]

@[simp] theorem memWrite_nmiArmed (a : Addr) (v : Byte) (s : State) : (memWrite a v s).nmiArmed = s.nmiArmed := by
  rw [memWrite_frame]

@[simp] theorem memWrite_master (a : Addr) (v : Byte) (s : State) : (memWrite a v s).master = s.master := by
  rw [memWrite_frame]

/-! ## The stack -/

/-- A push is one RAM byte and the stack pointer (R235). -/
theorem push_eq (v : Byte) (s : State) :
    push v s =
      { s with ram := Memory.write s.ram (256 + s.cpu.sp.toNat) v, cpu := { s.cpu with sp := s.cpu.sp - 1#8 } } := by
  simp [push, State.setSp]

/-- A pull is one RAM byte and the stack pointer (R236). -/
theorem pull_eq (s : State) :
    pull s = (Memory.read s.ram (256 + (s.cpu.sp + 1#8).toNat), s.setSp (s.cpu.sp + 1#8)) := by
  simp [pull]

/-- Pushing a word writes its high byte, then its low byte (R235). -/
theorem push16_eq (v : Addr) (s : State) :
    push16 v s =
      { s with
        ram := Memory.write (Memory.write s.ram (256 + s.cpu.sp.toNat) (hiByte v)) (256 + (s.cpu.sp - 1#8).toNat) (loByte v)
        cpu := { s.cpu with sp := s.cpu.sp - 2#8 } } := by
  simp only [push16, push_eq]
  congr 2
  bv_omega

/-- Pulling a word reads its low byte, then its high byte (R236). -/
theorem pull16_eq (s : State) :
    pull16 s =
      (addrOf (Memory.read s.ram (256 + (s.cpu.sp + 1#8).toNat)) (Memory.read s.ram (256 + (s.cpu.sp + 2#8).toNat)),
        s.setSp (s.cpu.sp + 2#8)) := by
  have h : s.cpu.sp + 1#8 + 1#8 = s.cpu.sp + 2#8 := by bv_omega
  simp only [pull16, pull_eq, State.setSp]
  simp [h]

end Sys2Proof.Machine
end

