-- ==== Sys2Proof/Laws/Operands.lean ====
section
/-! SUPPORT. Reading and resolving operands: a resolver changes nothing, and `readOperand` in terms of the effective address. -/

namespace Sys2Proof.Machine

@[simp] theorem readPointer_eq (p : Byte) (s : State) :
    readPointer p s = (addrOf (Memory.read s.ram p.toNat) (Memory.read s.ram (p + 1#8).toNat), s) := by
  simp [readPointer]

/-- A resolver changes nothing: its pointer reads are RAM reads in page 0. -/
@[simp] theorem resolve_st (o : Operand) (s : State) : (resolve o s).st = s := by
  cases o <;> simp [resolve, indexed]

/-- What reading an operand answers, in terms of its effective address. -/
theorem readOperand_eq (o : Operand) (s : State) :
    readOperand o s = { value := operandByte o s, crossed := (resolve o s).crossed, st := operandAfter o s } := by
  cases o <;> simp [readOperand, operandByte, operandAfter, busByte, resolve, indexed]

theorem operandAfter_effects (o : Operand) (s : State) : onlyReadEffects s (operandAfter o s) := by
  cases o <;> first | rfl | exact memRead_effects _ s

@[simp] theorem operandAfter_cpu (o : Operand) (s : State) : (operandAfter o s).cpu = s.cpu := by
  rw [operandAfter_effects o s]

@[simp] theorem operandAfter_ram (o : Operand) (s : State) : (operandAfter o s).ram = s.ram := by
  rw [operandAfter_effects o s]

@[simp] theorem operandAfter_cart (o : Operand) (s : State) : (operandAfter o s).cart = s.cart := by
  rw [operandAfter_effects o s]

/-- A quiet operand changes nothing but the log. -/
theorem operandAfter_quiet {o : Operand} {s : State} (h : operandQuiet o s) :
    operandAfter o s = { s with log := (operandAfter o s).log } := by
  cases o <;> first | rfl | exact memRead_quiet h s

/-- What a reading instruction leaves, in terms of the operand byte. -/
theorem readingInstr_eq (o : Operand) (base : Nat) (f : Byte → State → State) (s : State) :
    readingInstr o base f s =
      .next ((f (operandByte o s) (operandAfter o s)).cost (base + crossCycle o s)) := by
  simp [readingInstr, readOperand_eq, crossCycle, pageCycle]

/-- What a store leaves. -/
theorem storingInstr_eq (o : Operand) (base : Nat) (v : Byte) (s : State) :
    storingInstr o base v s = .next ((memWrite (resolve o s).ea v s).cost base) := by
  simp [storingInstr]

end Sys2Proof.Machine
end

