-- ==== Sys2Proof/Laws/Access.lean ====
section
/-! SUPPORT. What a bus read gives after each shared operation: after a change of CPU registers only, after a RAM write,
after any bus write, after an operand read. -/

namespace Sys2Proof.Machine

/-! ## Reads after a change of registers, RAM or the log -/

/-- A bus read does not depend on the CPU registers. -/
theorem busByte_sameOutsideCpu {s t : State} (h : sameOutsideCpu s t) (a : Addr) : busByte a t = busByte a s := by
  unfold sameOutsideCpu at h
  refine busByte_congr_all a ?_ ?_ ?_ ?_ <;> rw [h]

@[simp] theorem busByte_setA (a : Addr) (v : Byte) (s : State) : busByte a (s.setA v) = busByte a s :=
  busByte_congr_all a rfl rfl rfl rfl

@[simp] theorem busByte_setX (a : Addr) (v : Byte) (s : State) : busByte a (s.setX v) = busByte a s :=
  busByte_congr_all a rfl rfl rfl rfl

@[simp] theorem busByte_setY (a : Addr) (v : Byte) (s : State) : busByte a (s.setY v) = busByte a s :=
  busByte_congr_all a rfl rfl rfl rfl

@[simp] theorem busByte_setSp (a : Addr) (v : Byte) (s : State) : busByte a (s.setSp v) = busByte a s :=
  busByte_congr_all a rfl rfl rfl rfl

@[simp] theorem busByte_setPc (a v : Addr) (s : State) : busByte a (s.setPc v) = busByte a s :=
  busByte_congr_all a rfl rfl rfl rfl

@[simp] theorem busByte_setP (a : Addr) (v : Byte) (s : State) : busByte a (s.setP v) = busByte a s :=
  busByte_congr_all a rfl rfl rfl rfl

@[simp] theorem busByte_cost (a : Addr) (n : Nat) (s : State) : busByte a (s.cost n) = busByte a s :=
  busByte_congr_all a rfl rfl rfl rfl

@[simp] theorem busByte_addDebt (a : Addr) (n : Nat) (s : State) : busByte a (s.addDebt n) = busByte a s :=
  busByte_congr_all a rfl rfl rfl rfl

@[simp] theorem busByte_record (a : Addr) (e : LogEvent) (s : State) : busByte a (s.record e) = busByte a s :=
  busByte_congr_all a rfl rfl rfl rfl

/-- A RAM address reads the mirrored byte (R78). -/
theorem busByte_ram {a : Addr} (h : a.toNat ≤ 0x1FFF) (s : State) :
    busByte a s = Memory.read s.ram (a.toNat % 0x0800) := by
  simp [busByte, memRead_ram h]

/-- A bus read outside RAM does not depend on RAM. -/
theorem busByte_notRam {a : Addr} (h : ¬a.toNat ≤ 0x1FFF) (s : State) (m : Memory) :
    busByte a { s with ram := m } = busByte a s := by
  unfold busByte memRead
  rcases busRegion_cases a with ⟨h', _⟩ | ⟨_, _, h'⟩ | ⟨_, h'⟩ | ⟨_, h'⟩ | ⟨_, h'⟩ | ⟨_, _, _, _, h'⟩
  · exact absurd h' h
  all_goals rw [h']; dsimp only; split <;> try rfl
  simp only [ppuRegRead]
  split <;> rfl

/-- Any bus read after one RAM byte is written. -/
theorem busByte_ramWrite (s : State) (b : Addr) (k : Nat) (v : Byte) :
    busByte b { s with ram := Memory.write s.ram k v } =
      if b.toNat ≤ 0x1FFF ∧ b.toNat % 0x0800 = k then v else busByte b s := by
  by_cases hb : b.toNat ≤ 0x1FFF
  · rw [busByte_ram hb, busByte_ram hb]
    simp only [hb, true_and, Memory.read_write]
  · simp [hb, busByte_notRam hb]

/-! ## Addresses by region -/

/-- A PPU register address reads that register (R79). -/
theorem memRead_ppuRegister {a : Addr} (h : 0x2000 ≤ a.toNat) (h' : a.toNat ≤ 0x3FFF) (s : State) :
    memRead a s = ppuRegRead (a.toNat % 8) s := by
  simp [memRead, cartCpuRead_low s.cart (show a.toNat < 0x8000 by omega), busRegion_ppu h h']

/-- A PPU register address writes that register (R79). -/
theorem memWrite_ppuRegister {a : Addr} (h : 0x2000 ≤ a.toNat) (h' : a.toNat ≤ 0x3FFF) (v : Byte) (s : State) :
    memWrite a v s = ppuRegWrite (a.toNat % 8) v s := by
  simp [memWrite, cartCpuWrite_low s.cart (show a.toNat < 0x8000 by omega), busRegion_ppu h h']

/-- An address nobody claims is neither the cartridge's nor any device's (R83). -/
theorem busRegion_unclaimed {s : State} {a : Addr} (h : unclaimedAddr s a) :
    busRegion a = .unclaimed ∧ cartCpuRead s.cart a = none := by
  constructor
  · unfold unclaimedAddr at h
    have ne (n : Nat) (hn : n < 65536) (h' : a.toNat ≠ n) : a ≠ BitVec.ofNat 16 n := by
      rintro rfl
      apply h'
      simp
      omega
    unfold busRegion
    rw [if_neg (by omega), if_neg (by omega), if_neg, if_neg, if_neg] <;> (apply ne <;> omega)
  · rcases h with h | h | h | h
    · exact cartCpuRead_low _ (by omega)
    · exact cartCpuRead_low _ (by omega)
    · exact cartCpuRead_low _ (by omega)
    · rw [h.1]
      rfl

/-- With a cartridge, an address of its window reads PRG and changes nothing (R91, R94). -/
theorem memRead_prg {s : State} {c : Cartridge} (hc : s.cart = some c) {a : Addr} (h : 0x8000 ≤ a.toNat) :
    memRead a s = (Memory.read c.prg (a.toNat % (if c.prgBanks = 1#8 then 0x4000 else 0x8000)), s) := by
  simp [memRead, hc, cartCpuRead, nromCpu, h]

/-- An address that holds code reads the same byte whatever else has been read (R78, R91). -/
theorem memRead_code {s : State} {a : Addr} (h : codeAddr a s) : memRead a s = (busByte a s, s) := by
  rcases h with h | ⟨hc, h⟩
  · rw [busByte, memRead_ram h]
  · obtain ⟨c, hc⟩ := Option.ne_none_iff_exists'.mp hc
    rw [busByte, memRead_prg hc h]

/-! ## Reads after a bus write -/

/-- A write to a PPU register changes no byte of PRG: it can only change CHR. -/
theorem ppuRegWrite_prg (r : Nat) (x : Byte) (s : State) (a : Addr) :
    cartCpuRead (ppuRegWrite r x s).cart a = cartCpuRead s.cart a := by
  unfold ppuRegWrite
  split <;> try rfl
  unfold ppuDataWrite ppuWrite
  dsimp only
  split
  · split
    · rename_i c hc
      cases hs : s.cart with
      | none => simp [hs, cartPpuWrite] at hc
      | some d =>
        simp only [hs, cartPpuWrite, Option.map_eq_some_iff] at hc
        obtain ⟨_, _, rfl⟩ := hc
        rfl
    · rfl
  · split <;> rfl

/-- The value of a plain address depends only on RAM and PRG. -/
theorem busByte_congr_prg {a : Addr} (ha : deviceAddr a = false) {s t : State} (hr : t.ram = s.ram)
    (hc : cartCpuRead t.cart a = cartCpuRead s.cart a) : busByte a t = busByte a s := by
  unfold busByte memRead
  rw [hc]
  split
  · rfl
  · rcases busRegion_cases a with ⟨_, h⟩ | ⟨h1, h2, h⟩ | ⟨_, h⟩ | ⟨rfl, h⟩ | ⟨rfl, h⟩ | ⟨_, _, _, _, h⟩ <;> rw [h]
    · rw [hr]
    · simp [deviceAddr, h1, h2] at ha
    · simp [deviceAddr] at ha
    · simp [deviceAddr] at ha

/-- What one bus write leaves of memory. -/
theorem memWrite_memoryBut (a : Addr) (v : Byte) (s : State) : memoryBut a s (memWrite a v s) := by
  intro b hb hs
  have dev (ha : deviceAddr a = true) : deviceAddr b = false := by simpa [ha] using hb
  unfold memWrite
  split
  · rfl
  · rcases busRegion_cases a with ⟨h0, h⟩ | ⟨h1, h2, h⟩ | ⟨_, h⟩ | ⟨h0, h⟩ | ⟨h0, h⟩ | ⟨_, _, _, _, h⟩ <;> rw [h] <;>
      dsimp only
    · rw [busByte_ramWrite, if_neg]
      rintro ⟨h1, h2⟩
      exact hs ⟨h0, h1, h2.symm⟩
    · exact busByte_congr_prg (dev (by simp [deviceAddr, h1, h2])) (by rw [ppuRegWrite_frame]) (ppuRegWrite_prg _ _ _ _)
    · exact busByte_congr_all b rfl rfl rfl rfl
    · exact busByte_congr (dev (by simp [deviceAddr, h0])) rfl rfl
    · exact busByte_congr (dev (by simp [deviceAddr, h0])) rfl rfl
    · exact busByte_congr_all b rfl rfl rfl rfl

theorem memoryBut_sameOutsideCpu {a : Addr} {s t u : State} (h : memoryBut a s t) (h' : sameOutsideCpu t u) :
    memoryBut a s u :=
  fun b hb hs => (busByte_sameOutsideCpu h' b).trans (h b hb hs)

/-- A device answers at every address a read of which has a side effect (R74). -/
theorem readSideEffect_of_plain {a : Addr} (h : deviceAddr a = false) : readSideEffect a = false := by
  revert h
  simp only [deviceAddr, readSideEffect, Bool.or_eq_false_iff, Bool.and_eq_false_iff]
  tauto

/-- One read, then one write at the same address, leaves of memory what the write leaves (R73). -/
theorem readThenWrite_memoryBut (a : Addr) (v : Byte) (s : State) : memoryBut a s (memWrite a v (memRead a s).2) := by
  intro b hb hs
  rw [memWrite_memoryBut _ _ _ b hb hs]
  by_cases hd : deviceAddr b = false
  · exact busByte_congr hd (by simp) (by simp)
  · have hq := readSideEffect_of_plain (show deviceAddr a = false by tauto)
    refine busByte_congr_all b ?_ ?_ ?_ ?_ <;> rw [memRead_quiet hq]

/-! ## Reads after an operand read -/

/-- What reading an operand leaves of memory. -/
theorem operandAfter_memoryReadOnly {o : Operand} {s t : State} (h : sameOutsideCpu (operandAfter o s) t) :
    memoryReadOnly o s t := by
  unfold sameOutsideCpu at h
  constructor
  · intro a ha
    refine busByte_congr ha ?_ ?_ <;> rw [h] <;> simp
  · intro hq a
    have h' := operandAfter_quiet hq
    refine busByte_congr_all a ?_ ?_ ?_ ?_ <;> rw [h] <;> simp only <;> rw [h']

/-! ## The flags of a result -/

theorem flagsZN_setZN (r p : Byte) : flagsZN r p (Machine.setZN r p) := by
  refine ⟨by simp [getFlag_setZN], by simp [getFlag_setZN], fun f hf => ?_⟩
  simp only [List.mem_cons, List.not_mem_nil, or_false, not_or] at hf
  simp [getFlag_setZN, hf]

/-! ## The data port's address -/

/-- The data port uses `v` modulo 0x4000 (R285, R288). -/
@[simp] theorem Ppu.dataAddr_toNat (u : Ppu) : u.dataAddr.toNat = u.v.toNat % 0x4000 := by
  have h := u.v.isLt
  have e := Nat.and_two_pow_sub_one_eq_mod u.v.toNat 14
  simp only [Ppu.dataAddr, BitVec.toNat_and, BitVec.toNat_setWidth, BitVec.toNat_ofNat]
  rw [Nat.mod_eq_of_lt (show u.v.toNat < 2 ^ 16 by omega)]
  exact e

/-- A PPU-bus read depends on its address modulo 0x4000 (R97). -/
theorem ppuRead_congr {cart : Option Cartridge} {u : Ppu} {a b : Addr} (h : a.toNat % 0x4000 = b.toNat % 0x4000) :
    ppuRead cart u a = ppuRead cart u b := by
  unfold ppuRead
  rw [h]

end Sys2Proof.Machine
end

