-- ==== Sys2Proof/Laws/Stack.lean ====
section
/-! SUPPORT. Interrupt entry and return, each in one equation: three stack bytes, the stack pointer, PC, the status. -/

namespace Sys2Proof.Machine

/-- The RAM after three pushes from a stack pointer down (48_stack.md R235). -/
def pushedRam (b0 b1 b2 : Byte) (s : State) : Memory :=
  Memory.write (Memory.write (Memory.write s.ram (256 + s.cpu.sp.toNat) b0) (256 + (s.cpu.sp - 1#8).toNat) b1)
    (256 + (s.cpu.sp - 2#8).toNat) b2

/-- Three pushes leave their bytes on the stack and every other byte as it was. -/
theorem pushedThree_of_ram {b0 b1 b2 : Byte} {s t : State} (hr : t.ram = pushedRam b0 b1 b2 s) (hc : t.cart = s.cart)
    (hp : t.ppu = s.ppu) (hs : t.ctrlShift = s.ctrlShift) : pushedThree b0 b1 b2 s t := by
  have e (b : Addr) : busByte b t = busByte b { s with ram := t.ram } := busByte_congr_all b rfl hc hp hs
  have l0 := s.cpu.sp.isLt
  have l1 := (s.cpu.sp - 1#8).isLt
  have l2 := (s.cpu.sp - 2#8).isLt
  refine ⟨?_, ?_, ?_, ?_⟩
  · rw [e, busByte_ram (by rw [stackAddr_toNat]; omega), stackAddr_toNat, Nat.mod_eq_of_lt (by omega), hr, pushedRam,
      Memory.read_write_other _ _ (by bv_omega), Memory.read_write_other _ _ (by bv_omega), Memory.read_write_same]
  · rw [e, busByte_ram (by rw [stackAddr_toNat]; omega), stackAddr_toNat, Nat.mod_eq_of_lt (by omega), hr, pushedRam,
      Memory.read_write_other _ _ (by bv_omega), Memory.read_write_same]
  · rw [e, busByte_ram (by rw [stackAddr_toNat]; omega), stackAddr_toNat, Nat.mod_eq_of_lt (by omega), hr, pushedRam,
      Memory.read_write_same]
  · intro a h0 h1 h2
    rw [e, hr]
    by_cases ha : a.toNat ≤ 0x1FFF
    · simp only [sameRamByte, stackAddr_toNat] at h0 h1 h2
      rw [busByte_ram ha, busByte_ram ha, pushedRam, Memory.read_write_other _ _ (by omega),
        Memory.read_write_other _ _ (by omega), Memory.read_write_other _ _ (by omega)]
    · exact busByte_notRam ha _ _

/-- A vector lies in the cartridge window: no RAM, no device, and reading it has no side effect. -/
theorem vector_plain {vec : Addr} (h : 0xFF00 ≤ vec.toNat) :
    ¬vec.toNat ≤ 0x1FFF ∧ deviceAddr vec = false ∧ readSideEffect vec = false := by
  have hd : deviceAddr vec = false := by
    simp only [deviceAddr, Bool.or_eq_false_iff, Bool.and_eq_false_iff, decide_eq_false_iff_not, beq_eq_false_iff_ne]
    refine ⟨⟨.inr (by omega), ?_⟩, ?_⟩ <;> rintro rfl <;> simp at h
  exact ⟨by omega, hd, readSideEffect_of_plain hd⟩

theorem pushPcAndStatus_eq (b : Byte) (s : State) :
    push b (push16 s.cpu.pc s) =
      { s with
        ram := pushedRam (hiByte s.cpu.pc) (loByte s.cpu.pc) b s
        cpu := { s.cpu with sp := s.cpu.sp - 3#8 } } := by
  have e : s.cpu.sp - 2#8 - 1#8 = s.cpu.sp - 3#8 := by bv_omega
  rw [push_eq, push16_eq]
  simp only [e, pushedRam]

/-- The whole effect of entering a handler (R250, R402); the two vector reads may be logged. -/
theorem enterHandler_eq (b : Byte) (vec : Addr) (s : State) (h : 0xFF00 ≤ vec.toNat) (h' : vec.toNat < 0xFFFF) :
    ∃ log, enterHandler b vec s =
      { s with
        ram := pushedRam (hiByte s.cpu.pc) (loByte s.cpu.pc) b s
        cpu := { s.cpu with sp := s.cpu.sp - 3#8, pc := busWord vec s, p := s.cpu.p ||| 0x04#8 }
        log := log } := by
  have h1 := vector_plain h
  have h2 := vector_plain (vec := vec + 1#16) (by rw [BitVec.toNat_add]; simp; omega)
  unfold enterHandler
  rw [pushPcAndStatus_eq]
  generalize hq : ({ s with ram := _, cpu := { s.cpu with sp := s.cpu.sp - 3#8 } } : State) = q
  simp only [read16]
  have r1 := memRead_quiet h1.2.2 (q.setFlag .i true)
  have r2 := memRead_quiet h2.2.2 (memRead vec (q.setFlag .i true)).2
  refine ⟨(memRead (vec + 1#16) (memRead vec (q.setFlag .i true)).2).2.log, ?_⟩
  have v1 : (memRead vec (q.setFlag .i true)).1 = busByte vec s := by
    rw [← busByte_notRam h1.1 s q.ram]
    change busByte vec _ = _
    refine busByte_congr_all _ ?_ ?_ ?_ ?_ <;> rw [← hq] <;> rfl
  have v2 : (memRead (vec + 1#16) (memRead vec (q.setFlag .i true)).2).1 = busByte (vec + 1#16) s := by
    rw [← busByte_notRam h2.1 s q.ram]
    change busByte (vec + 1#16) _ = _
    refine busByte_congr_all _ ?_ ?_ ?_ ?_ <;> rw [r1, ← hq] <;> rfl
  rw [v1, v2, r2, r1, ← hq]
  rfl

/-- The whole effect of the pulls of RTI (R249). -/
theorem returnFromInterrupt_eq (s : State) :
    returnFromInterrupt s =
      { s with
        cpu :=
          { s.cpu with
            p := statusPulled (Memory.read s.ram (256 + (s.cpu.sp + 1#8).toNat))
            pc := addrOf (Memory.read s.ram (256 + (s.cpu.sp + 2#8).toNat)) (Memory.read s.ram (256 + (s.cpu.sp + 3#8).toNat))
            sp := s.cpu.sp + 3#8 } } := by
  have e1 : s.cpu.sp + 1#8 + 1#8 = s.cpu.sp + 2#8 := by bv_omega
  have e2 : s.cpu.sp + 1#8 + 2#8 = s.cpu.sp + 3#8 := by bv_omega
  simp only [returnFromInterrupt, pull16_eq, pull_eq, State.setP, State.setSp, State.setPc, e1, e2]

end Sys2Proof.Machine
end

