-- ==== Sys2Proof/Laws/Exec.lean ====
section
/-! SUPPORT. What any instruction can do, said once: it changes CPU registers, reads and writes the bus, and records events,
and nothing else.  Whatever these four keep, every instruction and every interrupt entry keeps. -/

set_option Elab.async false

namespace Sys2Proof.Machine

/-- `t` comes from `s` by changes of CPU registers, bus reads, bus writes and recorded events. -/
inductive Accesses (s : State) : State → Prop where
  | refl : Accesses s s
  | cpu {t : State} (c : Cpu) (h : Accesses s t) : Accesses s { t with cpu := c }
  | read {t : State} (a : Addr) (h : Accesses s t) : Accesses s (memRead a t).2
  | write {t : State} (a : Addr) (v : Byte) (h : Accesses s t) : Accesses s (memWrite a v t)
  | record {t : State} (e : LogEvent) (h : Accesses s t) : Accesses s (t.record e)

namespace Accesses

variable {s t u : State}

theorem trans (h : Accesses s t) (h' : Accesses t u) : Accesses s u := by
  induction h' with
  | refl => exact h
  | cpu c _ ih => exact .cpu c ih
  | read a _ ih => exact .read a ih
  | write a v _ ih => exact .write a v ih
  | record e _ ih => exact .record e ih

theorem of_sameOutsideCpu (h : sameOutsideCpu s t) : Accesses s t := by
  rw [show t = { s with cpu := t.cpu } from h]
  exact .cpu _ .refl

theorem push (v : Byte) (h : Accesses s t) : Accesses s (Machine.push v t) := .cpu _ (.write _ v h)

theorem pull (h : Accesses s t) : Accesses s (Machine.pull t).2 :=
  .read (t := t.setSp (t.cpu.sp + 1#8)) (stackAddr (t.cpu.sp + 1#8)) (.cpu _ h)

theorem push16 (v : Addr) (h : Accesses s t) : Accesses s (Machine.push16 v t) := push _ (push _ h)

theorem pull16 (h : Accesses s t) : Accesses s (Machine.pull16 t).2 := pull (pull h)

theorem read16 (a : Addr) (h : Accesses s t) : Accesses s (Machine.read16 a t).2 := .read _ (.read _ h)

theorem enterHandler (b : Byte) (vec : Addr) (h : Accesses s t) : Accesses s (Machine.enterHandler b vec t) :=
  .cpu _ (read16 (t := (Machine.push b (Machine.push16 t.cpu.pc t)).setFlag .i true) _ (.cpu _ (push _ (push16 _ h))))

theorem interrupt (vec : Addr) (h : Accesses s t) : Accesses s (Machine.interrupt vec t) := .cpu _ (enterHandler _ _ h)

theorem cpuNmi (h : Accesses s t) : Accesses s (Machine.cpuNmi t) := interrupt _ h

theorem cpuIrq (h : Accesses s t) : Accesses s (Machine.cpuIrq t) := by
  unfold Machine.cpuIrq
  split
  · exact h
  · exact interrupt _ h

theorem returnFromInterrupt (h : Accesses s t) : Accesses s (Machine.returnFromInterrupt t) := by
  rw [returnFromInterrupt_eq]
  exact .cpu _ h

theorem operand (o : Operand) (s : State) : Accesses s (operandAfter o s) := by
  cases o <;> first | exact .refl | exact .read _ .refl

theorem readingInstr {o : Operand} {base : Nat} {f : Byte → State → State}
    (h : Machine.readingInstr o base f s = .next t) (hf : ∀ m u, sameOutsideCpu u (f m u)) : Accesses s t := by
  rw [readingInstr_eq] at h
  cases h
  exact .cpu _ ((operand o s).trans (of_sameOutsideCpu (hf _ _)))

theorem storingInstr {o : Operand} {base : Nat} {v : Byte} (h : Machine.storingInstr o base v s = .next t) :
    Accesses s t := by
  rw [storingInstr_eq] at h
  cases h
  exact .cpu _ (.write _ _ .refl)

theorem modifyingInstr {o : Operand} {base : Nat} {f : Byte → Byte → ModifyResult}
    (h : Machine.modifyingInstr o base f s = .next t) : Accesses s t := by
  simp only [Machine.modifyingInstr, resolve_st] at h
  cases h
  exact .cpu _ (.cpu _ (.write _ _ (.read _ .refl)))

theorem branchIf {c : Bool} {off : Byte} (h : Machine.branchIf c off s = .next t) : Accesses s t := by
  unfold Machine.branchIf at h
  split at h <;> cases h <;> exact of_sameOutsideCpu rfl

end Accesses

/-- Every instruction answers a next state (60_exceptions.md R400). -/
theorem exec_next (i : Instr) (s : State) : ∃ t, exec i s = .next t := by
  have br (c : Bool) (off : Byte) : ∃ t, branchIf c off s = .next t := by
    unfold branchIf
    split <;> exact ⟨_, rfl⟩
  cases i
  case bcc | bcs | beq | bne | bmi | bpl | bvc | bvs => exact br _ _
  all_goals exact ⟨_, rfl⟩

/-- An instruction is register changes, bus accesses and recorded events. -/
theorem exec_accesses {i : Instr} {s t : State} (h : exec i s = .next t) : Accesses s t := by
  cases i
  case bcc | bcs | beq | bne | bmi | bpl | bvc | bvs =>
    exact .branchIf h
  case ldaImm | ldaZp | ldaZpX | ldaAbs | ldaAbsX | ldaAbsY | ldaIndX | ldaIndY | ldxImm | ldxZp | ldxZpY | ldxAbs |
    ldxAbsY | ldyImm | ldyZp | ldyZpX | ldyAbs | ldyAbsX | andImm | andZp | andZpX | andAbs | andAbsX | andAbsY |
    andIndX | andIndY | oraImm | oraZp | oraZpX | oraAbs | oraAbsX | oraAbsY | oraIndX | oraIndY | eorImm | eorZp |
    eorZpX | eorAbs | eorAbsX | eorAbsY | eorIndX | eorIndY | bitZp | bitAbs | cmpImm | cmpZp | cmpZpX | cmpAbs |
    cmpAbsX | cmpAbsY | cmpIndX | cmpIndY | cpxImm | cpxZp | cpxAbs | cpyImm | cpyZp | cpyAbs | adcImm | adcZp |
    adcZpX | adcAbs | adcAbsX | adcAbsY | adcIndX | adcIndY | sbcImm | sbcZp | sbcZpX | sbcAbs | sbcAbsX | sbcAbsY |
    sbcIndX | sbcIndY =>
    exact .readingInstr h fun _ _ => rfl
  case staZp | staZpX | staAbs | staAbsX | staAbsY | staIndX | staIndY | stxZp | stxZpY | stxAbs | styZp | styZpX |
    styAbs =>
    exact .storingInstr h
  case incZp | incZpX | incAbs | incAbsX | decZp | decZpX | decAbs | decAbsX | aslZp | aslZpX | aslAbs | aslAbsX |
    lsrZp | lsrZpX | lsrAbs | lsrAbsX | rolZp | rolZpX | rolAbs | rolAbsX | rorZp | rorZpX | rorAbs | rorAbsX =>
    exact .modifyingInstr h
  case tax | tay | txa | tya | tsx | txs | inx | iny | dex | dey | aslAcc | lsrAcc | rolAcc | rorAcc | jmpAbs | clc |
    sec | cli | sei | cld | sed | clv | nop =>
    cases h
    exact .of_sameOutsideCpu rfl
  case und =>
    cases h
    exact .cpu _ (.record _ .refl)
  case pha =>
    cases h
    exact .cpu _ (.push _ .refl)
  case php =>
    cases h
    exact .cpu _ (.push _ .refl)
  case pla =>
    cases h
    exact .cpu _ (.cpu _ (.cpu _ (.pull .refl)))
  case plp =>
    cases h
    exact .cpu _ (.cpu _ (.pull .refl))
  case jsr =>
    cases h
    exact .cpu _ (.cpu _ (.push16 _ .refl))
  case rts =>
    cases h
    exact .cpu _ (.cpu _ (.pull16 .refl))
  case jmpInd =>
    cases h
    exact .cpu _ (.cpu _ (.read _ (.read _ .refl)))
  case rti =>
    cases h
    exact .cpu _ (.returnFromInterrupt .refl)
  case brk =>
    cases h
    exact .cpu _ (.enterHandler (t := s.setPc (s.cpu.pc + 1#16)) _ _ (.cpu _ .refl))

end Sys2Proof.Machine
end

