-- ==== Sys2Proof/Laws/Step.lean ====
section
/-! SUPPORT. What the parts of a step leave unchanged: bus accesses, the fetch, the PPU clock, the DMA controller, the end of
the tick. -/

namespace Sys2Proof.Machine

/-! ## What no bus access changes -/

/-- The cartridge can only have its CHR changed, and only when CHR is RAM (20_memory.md R93, R94). -/
def cartKept (c d : Option Cartridge) : Prop :=
  (c = none → d = none) ∧ ∀ x, c = some x → ∃ y, d = some y ∧ y = { x with chr := y.chr } ∧ (x.chrBanks ≠ 0#8 → y = x)

theorem cartKept_refl (c : Option Cartridge) : cartKept c c := ⟨id, fun x h => ⟨x, h, rfl, fun _ => rfl⟩⟩

theorem cartKept_trans {c d e : Option Cartridge} (h : cartKept c d) (h' : cartKept d e) : cartKept c e := by
  refine ⟨fun hc => h'.1 (h.1 hc), fun x hx => ?_⟩
  obtain ⟨y, hy, e1, e2⟩ := h.2 x hx
  obtain ⟨z, hz, e3, e4⟩ := h'.2 y hy
  refine ⟨z, hz, ?_, fun hb => ?_⟩
  · rw [e3, e1]
  · rw [e4 (by rw [e2 hb]; exact hb), e2 hb]

/-- What bus accesses and register changes keep: the rendering pipeline and its timing, the NMI signal, the button bytes, the
master counter, and the cartridge but for CHR RAM. -/
structure BusFrame (s t : State) : Prop where
  ppu :
    t.ppu =
      { s.ppu with
        ctrl := t.ppu.ctrl
        mask := t.ppu.mask
        verticalBlank := t.ppu.verticalBlank
        oamAddr := t.ppu.oamAddr
        v := t.ppu.v
        t := t.ppu.t
        fineX := t.ppu.fineX
        w := t.ppu.w
        dataBuf := t.ppu.dataBuf
        oam := t.ppu.oam
        nt := t.ppu.nt
        pal := t.ppu.pal
        pat := t.ppu.pat }
  ctrlIn : t.ctrlIn = s.ctrlIn
  nmiPending : t.nmiPending = s.nmiPending
  nmiArmed : t.nmiArmed = s.nmiArmed
  master : t.master = s.master
  cart : cartKept s.cart t.cart

theorem BusFrame.refl (s : State) : BusFrame s s := ⟨rfl, rfl, rfl, rfl, rfl, cartKept_refl _⟩

theorem BusFrame.trans {s t u : State} (h : BusFrame s t) (h' : BusFrame t u) : BusFrame s u :=
  ⟨by rw [h'.ppu, h.ppu], h'.ctrlIn.trans h.ctrlIn, h'.nmiPending.trans h.nmiPending, h'.nmiArmed.trans h.nmiArmed,
    h'.master.trans h.master, cartKept_trans h.cart h'.cart⟩

theorem memRead_busFrame (a : Addr) (s : State) : BusFrame s (memRead a s).2 := by
  refine ⟨?_, by simp, by simp, by simp, by simp, by simpa using cartKept_refl _⟩
  rw [memRead_ppu a s]

theorem ppuWrite_busFrame (a : Addr) (x : Byte) (s : State) : BusFrame s (ppuWrite a x s) := by
  unfold ppuWrite
  dsimp only
  split
  · split
    · rename_i d hd
      refine ⟨rfl, rfl, rfl, rfl, rfl, ?_⟩
      cases hs : s.cart with
      | none => simp [hs, cartPpuWrite] at hd
      | some c =>
        simp only [hs, cartPpuWrite, nromPpuWrite, Option.map_eq_some_iff] at hd
        obtain ⟨off, ho, rfl⟩ := hd
        refine ⟨by simp, fun x hx => ⟨_, rfl, ?_⟩⟩
        cases hx
        refine ⟨rfl, fun hb => ?_⟩
        rw [if_neg (fun h => hb h.2)] at ho
        cases ho
    · exact ⟨rfl, rfl, rfl, rfl, rfl, cartKept_refl _⟩
  · split <;> exact ⟨rfl, rfl, rfl, rfl, rfl, cartKept_refl _⟩

theorem memWrite_busFrame (a : Addr) (v : Byte) (s : State) : BusFrame s (memWrite a v s) := by
  unfold memWrite
  split
  · exact .refl s
  · split
    · exact ⟨rfl, rfl, rfl, rfl, rfl, cartKept_refl _⟩
    · unfold ppuRegWrite
      split <;> try exact ⟨rfl, rfl, rfl, rfl, rfl, cartKept_refl _⟩
      · refine ⟨?_, rfl, rfl, rfl, rfl, cartKept_refl _⟩
        unfold Ppu.writeScroll
        split <;> rfl
      · refine ⟨?_, rfl, rfl, rfl, rfl, cartKept_refl _⟩
        unfold Ppu.writeAddress
        split <;> rfl
      · exact .trans (ppuWrite_busFrame _ _ _) ⟨rfl, rfl, rfl, rfl, rfl, cartKept_refl _⟩
    · exact ⟨rfl, rfl, rfl, rfl, rfl, cartKept_refl _⟩
    · exact ⟨rfl, rfl, rfl, rfl, rfl, cartKept_refl _⟩
    · exact ⟨rfl, rfl, rfl, rfl, rfl, cartKept_refl _⟩

/-- The frame of any instruction, interrupt entry or fetch. -/
theorem Accesses.busFrame {s t : State} (h : Accesses s t) : BusFrame s t := by
  induction h with
  | refl => exact .refl s
  | cpu _ _ ih => exact ih.trans ⟨rfl, rfl, rfl, rfl, rfl, cartKept_refl _⟩
  | read a _ ih => exact ih.trans (memRead_busFrame _ _)
  | write a v _ ih => exact ih.trans (memWrite_busFrame _ _ _)
  | record e _ ih => exact ih.trans ⟨rfl, rfl, rfl, rfl, rfl, cartKept_refl _⟩

/-! ## The fetch -/

theorem fetchByte_accesses {s t : State} (h : Accesses s t) : Accesses s (fetchByte t).2 := .cpu _ (.read _ h)

theorem fetchInstr_accesses (s : State) : Accesses s (fetchInstr s).2 := by
  unfold fetchInstr
  dsimp only
  split
  · exact fetchByte_accesses .refl
  · exact fetchByte_accesses (fetchByte_accesses .refl)
  · exact fetchByte_accesses (fetchByte_accesses (fetchByte_accesses .refl))

@[simp] theorem fetchByte_p (s : State) : (fetchByte s).2.cpu.p = s.cpu.p := by
  simp [fetchByte]

@[simp] theorem fetchInstr_p (s : State) : (fetchInstr s).2.cpu.p = s.cpu.p := by
  unfold fetchInstr
  dsimp only
  split <;> simp

/-- Fetching is reading as many bytes as decode to one instruction. -/
theorem fetchInstr_eq {s : State} {i : Instr} {n : Nat} (h : decode (fetchBytes n s).1 = .ok i []) :
    fetchInstr s = (i, (fetchBytes n s).2) := by
  cases n with
  | zero => simp [fetchBytes, decode] at h
  | succ n =>
    simp only [fetchBytes] at h ⊢
    unfold fetchInstr
    dsimp only
    cases hf : opcodeFormat (fetchByte s).1 with
    | f1 j =>
      rw [decode_f1 hf] at h
      cases n with
      | zero =>
        simp only [fetchBytes] at h ⊢
        cases h
        rfl
      | succ n => simp [fetchBytes] at h
    | f2 mk =>
      rcases n with _ | _ | n
      · simp [fetchBytes, decode, hf] at h
      · simp only [fetchBytes] at h ⊢
        rw [decode_f2 hf] at h
        cases h
        rfl
      · simp only [fetchBytes] at h
        rw [decode_f2 hf] at h
        cases h
    | f3 mk =>
      rcases n with _ | _ | _ | n
      · simp [fetchBytes, decode, hf] at h
      · simp [fetchBytes, decode, hf] at h
      · simp only [fetchBytes] at h ⊢
        rw [decode_f3 hf] at h
        cases h
        rfl
      · simp only [fetchBytes] at h
        rw [decode_f3 hf] at h
        cases h

/-- Fetching a byte from RAM or PRG reads it and advances PC, and does nothing else. -/
theorem fetchByte_code {s : State} (h : codeAddr s.cpu.pc s) :
    fetchByte s = (busByte s.cpu.pc s, s.setPc (s.cpu.pc + 1#16)) := by
  unfold fetchByte
  rw [memRead_code h]

/-! ## The PPU clock, the DMA controller, the end of the tick -/

theorem armNmi_frame (p : Params) (s : State) :
    armNmi p s = { s with nmiPending := (armNmi p s).nmiPending, nmiArmed := (armNmi p s).nmiArmed } := by
  unfold armNmi
  split <;> rfl

/-- A PPU clock changes the PPU and, at the start of vertical blank, the NMI signal. -/
theorem ppuClock_frame (p : Params) (s : State) :
    ppuClock p s =
      { s with
        ppu := s.ppu.clock s.cart
        nmiPending := (ppuClock p s).nmiPending
        nmiArmed := (ppuClock p s).nmiArmed } := by
  unfold ppuClock
  dsimp only
  split
  · rw [armNmi_frame]
  · rfl

@[simp] theorem dmaRead_cpu (s : State) : (dmaRead s).cpu = s.cpu := by simp [dmaRead]
@[simp] theorem dmaRead_ram (s : State) : (dmaRead s).ram = s.ram := by simp [dmaRead]
@[simp] theorem dmaRead_cart (s : State) : (dmaRead s).cart = s.cart := by simp [dmaRead]
@[simp] theorem dmaWrite_cpu (s : State) : (dmaWrite s).cpu = s.cpu := rfl
@[simp] theorem dmaWrite_ram (s : State) : (dmaWrite s).ram = s.ram := rfl
@[simp] theorem dmaWrite_cart (s : State) : (dmaWrite s).cart = s.cart := rfl

@[simp] theorem dmaStep_cpu (s : State) : (dmaStep s).cpu = s.cpu := by
  unfold dmaStep
  split <;> (try split) <;> simp

@[simp] theorem dmaStep_ram (s : State) : (dmaStep s).ram = s.ram := by
  unfold dmaStep
  split <;> (try split) <;> simp

/-- The DMA controller keeps what bus accesses keep. -/
theorem dmaStep_busFrame (s : State) : BusFrame s (dmaStep s) := by
  have hr : BusFrame s (dmaRead s) := .trans (memRead_busFrame _ _) ⟨rfl, rfl, rfl, rfl, rfl, cartKept_refl _⟩
  unfold dmaStep
  split
  · exact .refl s
  · split
    · exact ⟨rfl, rfl, rfl, rfl, rfl, cartKept_refl _⟩
    · exact hr
  · exact hr
  · exact ⟨rfl, rfl, rfl, rfl, rfl, cartKept_refl _⟩

/-- With no delay, nothing is promoted at the end of a tick. -/
theorem endTick_default (s : State) : endTick Params.default s = countTick (deliverNmi s) := by
  simp [endTick, promoteNmi, Params.default]

/-- Every CPU clock answers a next state. -/
theorem cpuClock_next (s : State) : ∃ t, cpuClock s = .next t := by
  unfold cpuClock
  dsimp only
  split
  · exact exec_next _ _
  · exact ⟨_, rfl⟩

/-- The second part of a tick answers a next state. -/
theorem slotStep_next (s : State) : ∃ t, slotStep s = .next t := by
  unfold slotStep
  split
  · split
    · exact ⟨_, rfl⟩
    · exact cpuClock_next _
  · exact ⟨_, rfl⟩

/-- A CPU clock keeps what bus accesses keep. -/
theorem cpuClock_busFrame {s t : State} (h : cpuClock s = .next t) : BusFrame s t := by
  have e : BusFrame s (countCycle s) := ⟨rfl, rfl, rfl, rfl, rfl, cartKept_refl _⟩
  unfold cpuClock at h
  dsimp only at h
  split at h
  · exact e.trans ((fetchInstr_accesses _).trans (exec_accesses h)).busFrame
  · cases h
    exact ⟨rfl, rfl, rfl, rfl, rfl, cartKept_refl _⟩

/-- The second part of a tick keeps what bus accesses keep. -/
theorem slotStep_busFrame {s t : State} (h : slotStep s = .next t) : BusFrame s t := by
  unfold slotStep at h
  split at h
  · split at h
    · cases h
      exact dmaStep_busFrame s
    · exact cpuClock_busFrame h
  · cases h
    exact .refl s

/-- A step is the PPU clock, the CPU or DMA step, and the end of the tick. -/
theorem step_eq {s t : State} (h : step s = .next t) :
    ∃ u, slotStep (ppuClock Params.default s) = .next u ∧ t = countTick (deliverNmi u) := by
  obtain ⟨u, hu⟩ := slotStep_next (ppuClock Params.default s)
  refine ⟨u, hu, ?_⟩
  unfold step systemClock at h
  rw [hu] at h
  simp only [thenNext, endTick_default] at h
  cases h
  rfl

end Sys2Proof.Machine
end

