-- ==== Sys2Proof/Laws/Invariant.lean ====
section
/-! SUPPORT. Which parts of the invariant each operation keeps: bus accesses keep the memories in canonical form and the
cartridge legal; every instruction keeps the status policy of R25. -/

set_option Elab.async false

namespace Sys2Proof.Machine

/-! ## Memories and cartridge under bus accesses -/

/-- The memory part of the invariant. -/
structure MemInv (s : State) : Prop where
  ppu : s.ppu.Inv
  ram : Memory.wf 2048 s.ram = true
  cart : ∀ c, s.cart = some c → c.legal = true ∧ c.wf = true

theorem State.Inv.memInv {s : State} (h : s.Inv) : MemInv s := ⟨h.ppu, h.ram, h.cart⟩

theorem physicalTable_le (m : Mirroring) (i : Nat) : physicalTable m i ≤ 1 := by
  unfold physicalTable
  cases m <;> simp only <;> omega

theorem nametableIndex_lt (m : Mirroring) (i : Nat) : nametableIndex m i < 2048 := by
  have h := physicalTable_le m i
  unfold nametableIndex
  omega

theorem paletteIndex_spec (i : Nat) :
    paletteIndex i < 32 ∧ paletteIndex i ≠ 0x10 ∧ paletteIndex i ≠ 0x14 ∧ paletteIndex i ≠ 0x18 ∧ paletteIndex i ≠ 0x1C := by
  unfold paletteIndex
  dsimp only
  split <;> omega

theorem paletteWf_write {pal : Memory} (h : paletteWf pal = true) (i : Nat) (x : Byte) :
    paletteWf (Memory.write pal (paletteIndex i) x) = true := by
  obtain ⟨h0, h1, h2, h3, h4⟩ := paletteIndex_spec i
  simp only [paletteWf, Bool.and_eq_true, List.all_eq_true, bne_iff_ne] at h ⊢
  refine ⟨Memory.wf_write h.1 h0, fun c hc => ?_⟩
  rcases Memory.mem_write _ _ _ c hc with rfl | hc
  · exact ⟨⟨⟨h1, h2⟩, h3⟩, h4⟩
  · exact h.2 c hc.1

theorem Cartridge.write_ok {c d : Cartridge} {i : Nat} {x : Byte} (h : c.legal = true ∧ c.wf = true)
    (hw : cartPpuWrite (some c) i x = some d) : d.legal = true ∧ d.wf = true := by
  simp only [cartPpuWrite, nromPpuWrite, Option.map_eq_some_iff, Option.ite_none_right_eq_some] at hw
  obtain ⟨off, ⟨⟨hle, -⟩, ho⟩, rfl⟩ := hw
  cases ho
  have hlen : c.chrLen = 8192 := by
    have hl := h.1
    simp only [Cartridge.legal, Bool.and_eq_true, decide_eq_true_eq] at hl
    exact hl.2
  refine ⟨h.1, ?_⟩
  have hw := h.2
  simp only [Cartridge.wf, Bool.and_eq_true] at hw ⊢
  exact ⟨hw.1, Memory.wf_write hw.2 (by omega)⟩

theorem ppuWrite_memInv {s : State} (h : MemInv s) (a : Addr) (x : Byte) : MemInv (ppuWrite a x s) := by
  have hp := h.ppu
  unfold ppuWrite
  dsimp only
  split
  · split
    · rename_i d hd
      refine ⟨hp, h.ram, fun c hc => ?_⟩
      cases hc
      cases hs : s.cart with
      | none => simp [hs, cartPpuWrite] at hd
      | some c => exact Cartridge.write_ok (h.cart c hs) (hs ▸ hd)
    · exact ⟨⟨hp.oam, hp.nt, hp.pal, Memory.wf_write hp.pat (by omega), hp.fb, hp.scanline, hp.dot, hp.spriteCount⟩, h.ram,
        h.cart⟩
  · split
    · exact ⟨⟨hp.oam, Memory.wf_write hp.nt (nametableIndex_lt _ _), hp.pal, hp.pat, hp.fb, hp.scanline, hp.dot,
        hp.spriteCount⟩, h.ram, h.cart⟩
    · exact ⟨⟨hp.oam, hp.nt, paletteWf_write hp.pal _ _, hp.pat, hp.fb, hp.scanline, hp.dot, hp.spriteCount⟩, h.ram,
        h.cart⟩

theorem memRead_memInv {s : State} (h : MemInv s) (a : Addr) : MemInv (memRead a s).2 := by
  have hp := h.ppu
  refine ⟨?_, by simpa using h.ram, by simpa using h.cart⟩
  rw [memRead_ppu]
  exact ⟨hp.oam, hp.nt, hp.pal, hp.pat, hp.fb, hp.scanline, hp.dot, hp.spriteCount⟩

theorem memWrite_memInv {s : State} (h : MemInv s) (a : Addr) (v : Byte) : MemInv (memWrite a v s) := by
  have hp := h.ppu
  unfold memWrite
  split
  · exact h
  · rcases busRegion_cases a with ⟨_, hr⟩ | ⟨_, _, hr⟩ | ⟨_, hr⟩ | ⟨_, hr⟩ | ⟨_, hr⟩ | ⟨_, _, _, _, hr⟩ <;> rw [hr] <;>
      dsimp only
    · exact ⟨hp, Memory.wf_write h.ram (Nat.mod_lt _ (by decide)), h.cart⟩
    · unfold ppuRegWrite
      split
      · exact ⟨⟨hp.oam, hp.nt, hp.pal, hp.pat, hp.fb, hp.scanline, hp.dot, hp.spriteCount⟩, h.ram, h.cart⟩
      · exact ⟨⟨hp.oam, hp.nt, hp.pal, hp.pat, hp.fb, hp.scanline, hp.dot, hp.spriteCount⟩, h.ram, h.cart⟩
      · exact ⟨⟨hp.oam, hp.nt, hp.pal, hp.pat, hp.fb, hp.scanline, hp.dot, hp.spriteCount⟩, h.ram, h.cart⟩
      · exact ⟨⟨Memory.wf_write hp.oam s.ppu.oamAddr.isLt, hp.nt, hp.pal, hp.pat, hp.fb, hp.scanline, hp.dot,
          hp.spriteCount⟩, h.ram, h.cart⟩
      · refine ⟨?_, h.ram, h.cart⟩
        unfold Ppu.writeScroll
        split <;> exact ⟨hp.oam, hp.nt, hp.pal, hp.pat, hp.fb, hp.scanline, hp.dot, hp.spriteCount⟩
      · refine ⟨?_, h.ram, h.cart⟩
        unfold Ppu.writeAddress
        split <;> exact ⟨hp.oam, hp.nt, hp.pal, hp.pat, hp.fb, hp.scanline, hp.dot, hp.spriteCount⟩
      · have hw := ppuWrite_memInv h s.ppu.dataAddr v
        have hq := hw.ppu
        exact ⟨⟨hq.oam, hq.nt, hq.pal, hq.pat, hq.fb, hq.scanline, hq.dot, hq.spriteCount⟩, hw.ram, hw.cart⟩
      · exact h
    · exact ⟨hp, h.ram, h.cart⟩
    · exact ⟨hp, h.ram, h.cart⟩
    · exact ⟨hp, h.ram, h.cart⟩
    · exact ⟨hp, h.ram, h.cart⟩

/-- Any instruction, interrupt entry or fetch keeps the memories in canonical form and the cartridge legal. -/
theorem Accesses.memInv {s t : State} (h : Accesses s t) (hs : MemInv s) : MemInv t := by
  induction h with
  | refl => exact hs
  | cpu _ _ ih => exact ⟨ih.ppu, ih.ram, ih.cart⟩
  | read a _ ih => exact memRead_memInv ih a
  | write a v _ ih => exact memWrite_memInv ih a v
  | record _ _ ih => exact ⟨ih.ppu, ih.ram, ih.cart⟩

/-! ## The DMA controller's phase under bus accesses -/

theorem ppuRegWrite_dma (r : Nat) (x : Byte) (s : State) : (ppuRegWrite r x s).dma = s.dma := by
  rw [ppuRegWrite_frame]

/-- A bus write leaves the DMA phase or arms a transfer (R82). -/
theorem memWrite_dmaState (a : Addr) (v : Byte) (s : State) :
    (memWrite a v s).dma.state = s.dma.state ∨ (memWrite a v s).dma.state = .sync := by
  unfold memWrite
  split
  · exact .inl rfl
  · split
    · exact .inl rfl
    · exact .inl (by rw [ppuRegWrite_dma])
    · exact .inr rfl
    · exact .inl rfl
    · exact .inl rfl

/-- Any instruction, interrupt entry or fetch leaves the DMA phase or arms a transfer. -/
theorem Accesses.dmaState {s t : State} (h : Accesses s t) : t.dma.state = s.dma.state ∨ t.dma.state = .sync := by
  induction h with
  | refl => exact .inl rfl
  | cpu _ _ ih => exact ih
  | read a _ ih => simpa using ih
  | @write u a v _ ih =>
    rcases memWrite_dmaState a v u with h | h
    · rw [h]
      exact ih
    · exact .inr h
  | record _ _ ih => exact ih

/-! ## The status policy -/

/-- Break 0 and Unused 1 in a status byte (10_state.md R25). -/
def StatusPolicy (p : Byte) : Prop := p &&& 0x30#8 = 0x20#8

theorem StatusPolicy.of_flags {p q : Byte} (h : StatusPolicy p) (hb : getFlag .b q = getFlag .b p)
    (hu : getFlag .u q = getFlag .u p) : StatusPolicy q := by
  rw [StatusPolicy, status_policy_iff] at h ⊢
  rwa [hb, hu]

theorem StatusPolicy.setFlag {p : Byte} (h : StatusPolicy p) {f : Flag} (hf : f ≠ .b ∧ f ≠ .u) (v : Bool) :
    StatusPolicy (Machine.setFlag f v p) :=
  h.of_flags (getFlag_setFlag_other hf.1.symm v p) (getFlag_setFlag_other hf.2.symm v p)

theorem StatusPolicy.setZN {p : Byte} (h : StatusPolicy p) (r : Byte) : StatusPolicy (Machine.setZN r p) :=
  (h.setFlag (by decide) _).setFlag (by decide) _

theorem StatusPolicy.pulled (b : Byte) : StatusPolicy (statusPulled b) := by
  rw [StatusPolicy, status_policy_iff]
  exact ⟨by simp [getFlag_statusPulled], by simp [getFlag_statusPulled]⟩

theorem StatusPolicy.setI {p : Byte} (h : StatusPolicy p) : StatusPolicy (p ||| 0x04#8) :=
  h.setFlag (f := .i) (by decide) true

theorem readingInstr_status {o : Operand} {base : Nat} {f : Byte → State → State} {s t : State}
    (h : readingInstr o base f s = .next t) (hs : StatusPolicy s.cpu.p)
    (hf : ∀ m u, StatusPolicy u.cpu.p → StatusPolicy (f m u).cpu.p) : StatusPolicy t.cpu.p := by
  rw [readingInstr_eq] at h
  cases h
  exact hf _ _ (by simpa using hs)

theorem storingInstr_status {o : Operand} {base : Nat} {v : Byte} {s t : State}
    (h : storingInstr o base v s = .next t) (hs : StatusPolicy s.cpu.p) : StatusPolicy t.cpu.p := by
  rw [storingInstr_eq] at h
  cases h
  simpa using hs

theorem modifyingInstr_status {o : Operand} {base : Nat} {f : Byte → Byte → ModifyResult} {s t : State}
    (h : modifyingInstr o base f s = .next t) (hs : StatusPolicy s.cpu.p)
    (hf : ∀ m p, StatusPolicy p → StatusPolicy (f m p).status) : StatusPolicy t.cpu.p := by
  simp only [modifyingInstr, resolve_st] at h
  cases h
  exact hf _ _ (by simpa using hs)

theorem branchIf_status {c : Bool} {off : Byte} {s t : State} (h : branchIf c off s = .next t)
    (hs : StatusPolicy s.cpu.p) : StatusPolicy t.cpu.p := by
  unfold branchIf at h
  split at h <;> cases h <;> exact hs

theorem adcA_status (m : Byte) (s : State) (h : StatusPolicy s.cpu.p) : StatusPolicy (adcA m s).cpu.p :=
  ((h.setFlag (by decide) _).setFlag (by decide) _).setZN _

theorem compareFlags_status (r m p : Byte) (h : StatusPolicy p) : StatusPolicy (compareFlags r m p) :=
  ((h.setFlag (by decide) _).setFlag (by decide) _).setFlag (by decide) _

/-- Every instruction keeps the status policy (R25). -/
theorem exec_status {i : Instr} {s t : State} (h : exec i s = .next t) (hs : StatusPolicy s.cpu.p) :
    StatusPolicy t.cpu.p := by
  cases i
  case bcc | bcs | beq | bne | bmi | bpl | bvc | bvs =>
    exact branchIf_status h hs
  case ldaImm | ldaZp | ldaZpX | ldaAbs | ldaAbsX | ldaAbsY | ldaIndX | ldaIndY | ldxImm | ldxZp | ldxZpY | ldxAbs |
    ldxAbsY | ldyImm | ldyZp | ldyZpX | ldyAbs | ldyAbsX | andImm | andZp | andZpX | andAbs | andAbsX | andAbsY |
    andIndX | andIndY | oraImm | oraZp | oraZpX | oraAbs | oraAbsX | oraAbsY | oraIndX | oraIndY | eorImm | eorZp |
    eorZpX | eorAbs | eorAbsX | eorAbsY | eorIndX | eorIndY =>
    exact readingInstr_status h hs fun _ _ h => h.setZN _
  case bitZp | bitAbs =>
    exact readingInstr_status h hs fun _ _ h =>
      ((h.setFlag (by decide) _).setFlag (by decide) _).setFlag (by decide) _
  case cmpImm | cmpZp | cmpZpX | cmpAbs | cmpAbsX | cmpAbsY | cmpIndX | cmpIndY | cpxImm | cpxZp | cpxAbs | cpyImm |
    cpyZp | cpyAbs =>
    exact readingInstr_status h hs fun _ _ h => compareFlags_status _ _ _ h
  case adcImm | adcZp | adcZpX | adcAbs | adcAbsX | adcAbsY | adcIndX | adcIndY | sbcImm | sbcZp | sbcZpX | sbcAbs |
    sbcAbsX | sbcAbsY | sbcIndX | sbcIndY =>
    exact readingInstr_status h hs fun _ _ h => adcA_status _ _ h
  case staZp | staZpX | staAbs | staAbsX | staAbsY | staIndX | staIndY | stxZp | stxZpY | stxAbs | styZp | styZpX |
    styAbs =>
    exact storingInstr_status h hs
  case incZp | incZpX | incAbs | incAbsX | decZp | decZpX | decAbs | decAbsX =>
    exact modifyingInstr_status h hs fun _ _ h => h.setZN _
  case aslZp | aslZpX | aslAbs | aslAbsX | lsrZp | lsrZpX | lsrAbs | lsrAbsX | rolZp | rolZpX | rolAbs | rolAbsX |
    rorZp | rorZpX | rorAbs | rorAbsX =>
    exact modifyingInstr_status h hs fun _ _ h => (h.setFlag (by decide) _).setZN _
  case tax | tay | txa | tya | tsx | inx | iny | dex | dey =>
    cases h
    exact hs.setZN _
  case aslAcc | lsrAcc | rolAcc | rorAcc =>
    cases h
    exact (hs.setFlag (by decide) _).setZN _
  case clc | sec | cli | sei | cld | sed | clv =>
    cases h
    exact hs.setFlag (by decide) _
  case txs | nop | jmpAbs | und | pha | php | jsr | rts | jmpInd =>
    cases h
    simpa [push_eq, push16_eq, pull16_eq, readTarget] using hs
  case pla =>
    cases h
    exact StatusPolicy.setZN (by simpa [pull_eq] using hs) _
  case plp =>
    cases h
    exact .pulled _
  case rti =>
    cases h
    rw [returnFromInterrupt_eq]
    exact .pulled _
  case brk =>
    cases h
    obtain ⟨log, he⟩ := enterHandler_eq (statusPushedByInstruction s.cpu.p) irqVector (s.setPc (s.cpu.pc + 1#16))
      (by decide) (by decide)
    have he : softwareInterrupt s = _ := he
    rw [he]
    exact hs.setI

/-- Interrupt entry keeps the status policy. -/
theorem interrupt_status {vec : Addr} (h : 0xFF00 ≤ vec.toNat) (h' : vec.toNat < 0xFFFF) {s : State}
    (hs : StatusPolicy s.cpu.p) : StatusPolicy (interrupt vec s).cpu.p := by
  obtain ⟨log, he⟩ := enterHandler_eq (statusPushedByInterrupt s.cpu.p) vec s h h'
  rw [interrupt, he]
  exact hs.setI

end Sys2Proof.Machine
end

