-- ==== Sys2Proof/Laws/PerInstr.lean ====
section
/-! SUPPORT. Statements about every instruction, one lemma per constructor. -/

set_option Elab.async false

namespace Sys2Proof.Laws

/-- Decoding the encoding of a well-formed instruction gives it back, with nothing left over. -/
def RoundTrip.Statement (i : Instr) : Prop := i.wellFormed = true → decode (encode i) = .ok i []

theorem RoundTrip.ldaImm (d : Byte) : RoundTrip.Statement (.ldaImm d) := fun _ => decode_f2 rfl d []
theorem RoundTrip.ldaZp (d : Byte) : RoundTrip.Statement (.ldaZp d) := fun _ => decode_f2 rfl d []
theorem RoundTrip.ldaZpX (d : Byte) : RoundTrip.Statement (.ldaZpX d) := fun _ => decode_f2 rfl d []
theorem RoundTrip.ldaAbs (a : Addr) : RoundTrip.Statement (.ldaAbs a) := fun _ =>
  (decode_f3 rfl _ _ []).trans (by rw [addrOf_loByte_hiByte])
theorem RoundTrip.ldaAbsX (a : Addr) : RoundTrip.Statement (.ldaAbsX a) := fun _ =>
  (decode_f3 rfl _ _ []).trans (by rw [addrOf_loByte_hiByte])
theorem RoundTrip.ldaAbsY (a : Addr) : RoundTrip.Statement (.ldaAbsY a) := fun _ =>
  (decode_f3 rfl _ _ []).trans (by rw [addrOf_loByte_hiByte])
theorem RoundTrip.ldaIndX (d : Byte) : RoundTrip.Statement (.ldaIndX d) := fun _ => decode_f2 rfl d []
theorem RoundTrip.ldaIndY (d : Byte) : RoundTrip.Statement (.ldaIndY d) := fun _ => decode_f2 rfl d []
theorem RoundTrip.ldxImm (d : Byte) : RoundTrip.Statement (.ldxImm d) := fun _ => decode_f2 rfl d []
theorem RoundTrip.ldxZp (d : Byte) : RoundTrip.Statement (.ldxZp d) := fun _ => decode_f2 rfl d []
theorem RoundTrip.ldxZpY (d : Byte) : RoundTrip.Statement (.ldxZpY d) := fun _ => decode_f2 rfl d []
theorem RoundTrip.ldxAbs (a : Addr) : RoundTrip.Statement (.ldxAbs a) := fun _ =>
  (decode_f3 rfl _ _ []).trans (by rw [addrOf_loByte_hiByte])
theorem RoundTrip.ldxAbsY (a : Addr) : RoundTrip.Statement (.ldxAbsY a) := fun _ =>
  (decode_f3 rfl _ _ []).trans (by rw [addrOf_loByte_hiByte])
theorem RoundTrip.ldyImm (d : Byte) : RoundTrip.Statement (.ldyImm d) := fun _ => decode_f2 rfl d []
theorem RoundTrip.ldyZp (d : Byte) : RoundTrip.Statement (.ldyZp d) := fun _ => decode_f2 rfl d []
theorem RoundTrip.ldyZpX (d : Byte) : RoundTrip.Statement (.ldyZpX d) := fun _ => decode_f2 rfl d []
theorem RoundTrip.ldyAbs (a : Addr) : RoundTrip.Statement (.ldyAbs a) := fun _ =>
  (decode_f3 rfl _ _ []).trans (by rw [addrOf_loByte_hiByte])
theorem RoundTrip.ldyAbsX (a : Addr) : RoundTrip.Statement (.ldyAbsX a) := fun _ =>
  (decode_f3 rfl _ _ []).trans (by rw [addrOf_loByte_hiByte])
theorem RoundTrip.staZp (d : Byte) : RoundTrip.Statement (.staZp d) := fun _ => decode_f2 rfl d []
theorem RoundTrip.staZpX (d : Byte) : RoundTrip.Statement (.staZpX d) := fun _ => decode_f2 rfl d []
theorem RoundTrip.staAbs (a : Addr) : RoundTrip.Statement (.staAbs a) := fun _ =>
  (decode_f3 rfl _ _ []).trans (by rw [addrOf_loByte_hiByte])
theorem RoundTrip.staAbsX (a : Addr) : RoundTrip.Statement (.staAbsX a) := fun _ =>
  (decode_f3 rfl _ _ []).trans (by rw [addrOf_loByte_hiByte])
theorem RoundTrip.staAbsY (a : Addr) : RoundTrip.Statement (.staAbsY a) := fun _ =>
  (decode_f3 rfl _ _ []).trans (by rw [addrOf_loByte_hiByte])
theorem RoundTrip.staIndX (d : Byte) : RoundTrip.Statement (.staIndX d) := fun _ => decode_f2 rfl d []
theorem RoundTrip.staIndY (d : Byte) : RoundTrip.Statement (.staIndY d) := fun _ => decode_f2 rfl d []
theorem RoundTrip.stxZp (d : Byte) : RoundTrip.Statement (.stxZp d) := fun _ => decode_f2 rfl d []
theorem RoundTrip.stxZpY (d : Byte) : RoundTrip.Statement (.stxZpY d) := fun _ => decode_f2 rfl d []
theorem RoundTrip.stxAbs (a : Addr) : RoundTrip.Statement (.stxAbs a) := fun _ =>
  (decode_f3 rfl _ _ []).trans (by rw [addrOf_loByte_hiByte])
theorem RoundTrip.styZp (d : Byte) : RoundTrip.Statement (.styZp d) := fun _ => decode_f2 rfl d []
theorem RoundTrip.styZpX (d : Byte) : RoundTrip.Statement (.styZpX d) := fun _ => decode_f2 rfl d []
theorem RoundTrip.styAbs (a : Addr) : RoundTrip.Statement (.styAbs a) := fun _ =>
  (decode_f3 rfl _ _ []).trans (by rw [addrOf_loByte_hiByte])
theorem RoundTrip.tax : RoundTrip.Statement .tax := fun _ => decode_f1 rfl []
theorem RoundTrip.tay : RoundTrip.Statement .tay := fun _ => decode_f1 rfl []
theorem RoundTrip.txa : RoundTrip.Statement .txa := fun _ => decode_f1 rfl []
theorem RoundTrip.tya : RoundTrip.Statement .tya := fun _ => decode_f1 rfl []
theorem RoundTrip.tsx : RoundTrip.Statement .tsx := fun _ => decode_f1 rfl []
theorem RoundTrip.txs : RoundTrip.Statement .txs := fun _ => decode_f1 rfl []
theorem RoundTrip.incZp (d : Byte) : RoundTrip.Statement (.incZp d) := fun _ => decode_f2 rfl d []
theorem RoundTrip.incZpX (d : Byte) : RoundTrip.Statement (.incZpX d) := fun _ => decode_f2 rfl d []
theorem RoundTrip.incAbs (a : Addr) : RoundTrip.Statement (.incAbs a) := fun _ =>
  (decode_f3 rfl _ _ []).trans (by rw [addrOf_loByte_hiByte])
theorem RoundTrip.incAbsX (a : Addr) : RoundTrip.Statement (.incAbsX a) := fun _ =>
  (decode_f3 rfl _ _ []).trans (by rw [addrOf_loByte_hiByte])
theorem RoundTrip.decZp (d : Byte) : RoundTrip.Statement (.decZp d) := fun _ => decode_f2 rfl d []
theorem RoundTrip.decZpX (d : Byte) : RoundTrip.Statement (.decZpX d) := fun _ => decode_f2 rfl d []
theorem RoundTrip.decAbs (a : Addr) : RoundTrip.Statement (.decAbs a) := fun _ =>
  (decode_f3 rfl _ _ []).trans (by rw [addrOf_loByte_hiByte])
theorem RoundTrip.decAbsX (a : Addr) : RoundTrip.Statement (.decAbsX a) := fun _ =>
  (decode_f3 rfl _ _ []).trans (by rw [addrOf_loByte_hiByte])
theorem RoundTrip.inx : RoundTrip.Statement .inx := fun _ => decode_f1 rfl []
theorem RoundTrip.iny : RoundTrip.Statement .iny := fun _ => decode_f1 rfl []
theorem RoundTrip.dex : RoundTrip.Statement .dex := fun _ => decode_f1 rfl []
theorem RoundTrip.dey : RoundTrip.Statement .dey := fun _ => decode_f1 rfl []
theorem RoundTrip.aslAcc : RoundTrip.Statement .aslAcc := fun _ => decode_f1 rfl []
theorem RoundTrip.aslZp (d : Byte) : RoundTrip.Statement (.aslZp d) := fun _ => decode_f2 rfl d []
theorem RoundTrip.aslZpX (d : Byte) : RoundTrip.Statement (.aslZpX d) := fun _ => decode_f2 rfl d []
theorem RoundTrip.aslAbs (a : Addr) : RoundTrip.Statement (.aslAbs a) := fun _ =>
  (decode_f3 rfl _ _ []).trans (by rw [addrOf_loByte_hiByte])
theorem RoundTrip.aslAbsX (a : Addr) : RoundTrip.Statement (.aslAbsX a) := fun _ =>
  (decode_f3 rfl _ _ []).trans (by rw [addrOf_loByte_hiByte])
theorem RoundTrip.lsrAcc : RoundTrip.Statement .lsrAcc := fun _ => decode_f1 rfl []
theorem RoundTrip.lsrZp (d : Byte) : RoundTrip.Statement (.lsrZp d) := fun _ => decode_f2 rfl d []
theorem RoundTrip.lsrZpX (d : Byte) : RoundTrip.Statement (.lsrZpX d) := fun _ => decode_f2 rfl d []
theorem RoundTrip.lsrAbs (a : Addr) : RoundTrip.Statement (.lsrAbs a) := fun _ =>
  (decode_f3 rfl _ _ []).trans (by rw [addrOf_loByte_hiByte])
theorem RoundTrip.lsrAbsX (a : Addr) : RoundTrip.Statement (.lsrAbsX a) := fun _ =>
  (decode_f3 rfl _ _ []).trans (by rw [addrOf_loByte_hiByte])
theorem RoundTrip.rolAcc : RoundTrip.Statement .rolAcc := fun _ => decode_f1 rfl []
theorem RoundTrip.rolZp (d : Byte) : RoundTrip.Statement (.rolZp d) := fun _ => decode_f2 rfl d []
theorem RoundTrip.rolZpX (d : Byte) : RoundTrip.Statement (.rolZpX d) := fun _ => decode_f2 rfl d []
theorem RoundTrip.rolAbs (a : Addr) : RoundTrip.Statement (.rolAbs a) := fun _ =>
  (decode_f3 rfl _ _ []).trans (by rw [addrOf_loByte_hiByte])
theorem RoundTrip.rolAbsX (a : Addr) : RoundTrip.Statement (.rolAbsX a) := fun _ =>
  (decode_f3 rfl _ _ []).trans (by rw [addrOf_loByte_hiByte])
theorem RoundTrip.rorAcc : RoundTrip.Statement .rorAcc := fun _ => decode_f1 rfl []
theorem RoundTrip.rorZp (d : Byte) : RoundTrip.Statement (.rorZp d) := fun _ => decode_f2 rfl d []
theorem RoundTrip.rorZpX (d : Byte) : RoundTrip.Statement (.rorZpX d) := fun _ => decode_f2 rfl d []
theorem RoundTrip.rorAbs (a : Addr) : RoundTrip.Statement (.rorAbs a) := fun _ =>
  (decode_f3 rfl _ _ []).trans (by rw [addrOf_loByte_hiByte])
theorem RoundTrip.rorAbsX (a : Addr) : RoundTrip.Statement (.rorAbsX a) := fun _ =>
  (decode_f3 rfl _ _ []).trans (by rw [addrOf_loByte_hiByte])
theorem RoundTrip.andImm (d : Byte) : RoundTrip.Statement (.andImm d) := fun _ => decode_f2 rfl d []
theorem RoundTrip.andZp (d : Byte) : RoundTrip.Statement (.andZp d) := fun _ => decode_f2 rfl d []
theorem RoundTrip.andZpX (d : Byte) : RoundTrip.Statement (.andZpX d) := fun _ => decode_f2 rfl d []
theorem RoundTrip.andAbs (a : Addr) : RoundTrip.Statement (.andAbs a) := fun _ =>
  (decode_f3 rfl _ _ []).trans (by rw [addrOf_loByte_hiByte])
theorem RoundTrip.andAbsX (a : Addr) : RoundTrip.Statement (.andAbsX a) := fun _ =>
  (decode_f3 rfl _ _ []).trans (by rw [addrOf_loByte_hiByte])
theorem RoundTrip.andAbsY (a : Addr) : RoundTrip.Statement (.andAbsY a) := fun _ =>
  (decode_f3 rfl _ _ []).trans (by rw [addrOf_loByte_hiByte])
theorem RoundTrip.andIndX (d : Byte) : RoundTrip.Statement (.andIndX d) := fun _ => decode_f2 rfl d []
theorem RoundTrip.andIndY (d : Byte) : RoundTrip.Statement (.andIndY d) := fun _ => decode_f2 rfl d []
theorem RoundTrip.oraImm (d : Byte) : RoundTrip.Statement (.oraImm d) := fun _ => decode_f2 rfl d []
theorem RoundTrip.oraZp (d : Byte) : RoundTrip.Statement (.oraZp d) := fun _ => decode_f2 rfl d []
theorem RoundTrip.oraZpX (d : Byte) : RoundTrip.Statement (.oraZpX d) := fun _ => decode_f2 rfl d []
theorem RoundTrip.oraAbs (a : Addr) : RoundTrip.Statement (.oraAbs a) := fun _ =>
  (decode_f3 rfl _ _ []).trans (by rw [addrOf_loByte_hiByte])
theorem RoundTrip.oraAbsX (a : Addr) : RoundTrip.Statement (.oraAbsX a) := fun _ =>
  (decode_f3 rfl _ _ []).trans (by rw [addrOf_loByte_hiByte])
theorem RoundTrip.oraAbsY (a : Addr) : RoundTrip.Statement (.oraAbsY a) := fun _ =>
  (decode_f3 rfl _ _ []).trans (by rw [addrOf_loByte_hiByte])
theorem RoundTrip.oraIndX (d : Byte) : RoundTrip.Statement (.oraIndX d) := fun _ => decode_f2 rfl d []
theorem RoundTrip.oraIndY (d : Byte) : RoundTrip.Statement (.oraIndY d) := fun _ => decode_f2 rfl d []
theorem RoundTrip.eorImm (d : Byte) : RoundTrip.Statement (.eorImm d) := fun _ => decode_f2 rfl d []
theorem RoundTrip.eorZp (d : Byte) : RoundTrip.Statement (.eorZp d) := fun _ => decode_f2 rfl d []
theorem RoundTrip.eorZpX (d : Byte) : RoundTrip.Statement (.eorZpX d) := fun _ => decode_f2 rfl d []
theorem RoundTrip.eorAbs (a : Addr) : RoundTrip.Statement (.eorAbs a) := fun _ =>
  (decode_f3 rfl _ _ []).trans (by rw [addrOf_loByte_hiByte])
theorem RoundTrip.eorAbsX (a : Addr) : RoundTrip.Statement (.eorAbsX a) := fun _ =>
  (decode_f3 rfl _ _ []).trans (by rw [addrOf_loByte_hiByte])
theorem RoundTrip.eorAbsY (a : Addr) : RoundTrip.Statement (.eorAbsY a) := fun _ =>
  (decode_f3 rfl _ _ []).trans (by rw [addrOf_loByte_hiByte])
theorem RoundTrip.eorIndX (d : Byte) : RoundTrip.Statement (.eorIndX d) := fun _ => decode_f2 rfl d []
theorem RoundTrip.eorIndY (d : Byte) : RoundTrip.Statement (.eorIndY d) := fun _ => decode_f2 rfl d []
theorem RoundTrip.bitZp (d : Byte) : RoundTrip.Statement (.bitZp d) := fun _ => decode_f2 rfl d []
theorem RoundTrip.bitAbs (a : Addr) : RoundTrip.Statement (.bitAbs a) := fun _ =>
  (decode_f3 rfl _ _ []).trans (by rw [addrOf_loByte_hiByte])
theorem RoundTrip.cmpImm (d : Byte) : RoundTrip.Statement (.cmpImm d) := fun _ => decode_f2 rfl d []
theorem RoundTrip.cmpZp (d : Byte) : RoundTrip.Statement (.cmpZp d) := fun _ => decode_f2 rfl d []
theorem RoundTrip.cmpZpX (d : Byte) : RoundTrip.Statement (.cmpZpX d) := fun _ => decode_f2 rfl d []
theorem RoundTrip.cmpAbs (a : Addr) : RoundTrip.Statement (.cmpAbs a) := fun _ =>
  (decode_f3 rfl _ _ []).trans (by rw [addrOf_loByte_hiByte])
theorem RoundTrip.cmpAbsX (a : Addr) : RoundTrip.Statement (.cmpAbsX a) := fun _ =>
  (decode_f3 rfl _ _ []).trans (by rw [addrOf_loByte_hiByte])
theorem RoundTrip.cmpAbsY (a : Addr) : RoundTrip.Statement (.cmpAbsY a) := fun _ =>
  (decode_f3 rfl _ _ []).trans (by rw [addrOf_loByte_hiByte])
theorem RoundTrip.cmpIndX (d : Byte) : RoundTrip.Statement (.cmpIndX d) := fun _ => decode_f2 rfl d []
theorem RoundTrip.cmpIndY (d : Byte) : RoundTrip.Statement (.cmpIndY d) := fun _ => decode_f2 rfl d []
theorem RoundTrip.cpxImm (d : Byte) : RoundTrip.Statement (.cpxImm d) := fun _ => decode_f2 rfl d []
theorem RoundTrip.cpxZp (d : Byte) : RoundTrip.Statement (.cpxZp d) := fun _ => decode_f2 rfl d []
theorem RoundTrip.cpxAbs (a : Addr) : RoundTrip.Statement (.cpxAbs a) := fun _ =>
  (decode_f3 rfl _ _ []).trans (by rw [addrOf_loByte_hiByte])
theorem RoundTrip.cpyImm (d : Byte) : RoundTrip.Statement (.cpyImm d) := fun _ => decode_f2 rfl d []
theorem RoundTrip.cpyZp (d : Byte) : RoundTrip.Statement (.cpyZp d) := fun _ => decode_f2 rfl d []
theorem RoundTrip.cpyAbs (a : Addr) : RoundTrip.Statement (.cpyAbs a) := fun _ =>
  (decode_f3 rfl _ _ []).trans (by rw [addrOf_loByte_hiByte])
theorem RoundTrip.adcImm (d : Byte) : RoundTrip.Statement (.adcImm d) := fun _ => decode_f2 rfl d []
theorem RoundTrip.adcZp (d : Byte) : RoundTrip.Statement (.adcZp d) := fun _ => decode_f2 rfl d []
theorem RoundTrip.adcZpX (d : Byte) : RoundTrip.Statement (.adcZpX d) := fun _ => decode_f2 rfl d []
theorem RoundTrip.adcAbs (a : Addr) : RoundTrip.Statement (.adcAbs a) := fun _ =>
  (decode_f3 rfl _ _ []).trans (by rw [addrOf_loByte_hiByte])
theorem RoundTrip.adcAbsX (a : Addr) : RoundTrip.Statement (.adcAbsX a) := fun _ =>
  (decode_f3 rfl _ _ []).trans (by rw [addrOf_loByte_hiByte])
theorem RoundTrip.adcAbsY (a : Addr) : RoundTrip.Statement (.adcAbsY a) := fun _ =>
  (decode_f3 rfl _ _ []).trans (by rw [addrOf_loByte_hiByte])
theorem RoundTrip.adcIndX (d : Byte) : RoundTrip.Statement (.adcIndX d) := fun _ => decode_f2 rfl d []
theorem RoundTrip.adcIndY (d : Byte) : RoundTrip.Statement (.adcIndY d) := fun _ => decode_f2 rfl d []
theorem RoundTrip.sbcImm (d : Byte) : RoundTrip.Statement (.sbcImm d) := fun _ => decode_f2 rfl d []
theorem RoundTrip.sbcZp (d : Byte) : RoundTrip.Statement (.sbcZp d) := fun _ => decode_f2 rfl d []
theorem RoundTrip.sbcZpX (d : Byte) : RoundTrip.Statement (.sbcZpX d) := fun _ => decode_f2 rfl d []
theorem RoundTrip.sbcAbs (a : Addr) : RoundTrip.Statement (.sbcAbs a) := fun _ =>
  (decode_f3 rfl _ _ []).trans (by rw [addrOf_loByte_hiByte])
theorem RoundTrip.sbcAbsX (a : Addr) : RoundTrip.Statement (.sbcAbsX a) := fun _ =>
  (decode_f3 rfl _ _ []).trans (by rw [addrOf_loByte_hiByte])
theorem RoundTrip.sbcAbsY (a : Addr) : RoundTrip.Statement (.sbcAbsY a) := fun _ =>
  (decode_f3 rfl _ _ []).trans (by rw [addrOf_loByte_hiByte])
theorem RoundTrip.sbcIndX (d : Byte) : RoundTrip.Statement (.sbcIndX d) := fun _ => decode_f2 rfl d []
theorem RoundTrip.sbcIndY (d : Byte) : RoundTrip.Statement (.sbcIndY d) := fun _ => decode_f2 rfl d []
theorem RoundTrip.bcc (off : Byte) : RoundTrip.Statement (.bcc off) := fun _ => decode_f2 rfl off []
theorem RoundTrip.bcs (off : Byte) : RoundTrip.Statement (.bcs off) := fun _ => decode_f2 rfl off []
theorem RoundTrip.beq (off : Byte) : RoundTrip.Statement (.beq off) := fun _ => decode_f2 rfl off []
theorem RoundTrip.bne (off : Byte) : RoundTrip.Statement (.bne off) := fun _ => decode_f2 rfl off []
theorem RoundTrip.bmi (off : Byte) : RoundTrip.Statement (.bmi off) := fun _ => decode_f2 rfl off []
theorem RoundTrip.bpl (off : Byte) : RoundTrip.Statement (.bpl off) := fun _ => decode_f2 rfl off []
theorem RoundTrip.bvc (off : Byte) : RoundTrip.Statement (.bvc off) := fun _ => decode_f2 rfl off []
theorem RoundTrip.bvs (off : Byte) : RoundTrip.Statement (.bvs off) := fun _ => decode_f2 rfl off []
theorem RoundTrip.pha : RoundTrip.Statement .pha := fun _ => decode_f1 rfl []
theorem RoundTrip.php : RoundTrip.Statement .php := fun _ => decode_f1 rfl []
theorem RoundTrip.pla : RoundTrip.Statement .pla := fun _ => decode_f1 rfl []
theorem RoundTrip.plp : RoundTrip.Statement .plp := fun _ => decode_f1 rfl []
theorem RoundTrip.jmpAbs (a : Addr) : RoundTrip.Statement (.jmpAbs a) := fun _ =>
  (decode_f3 rfl _ _ []).trans (by rw [addrOf_loByte_hiByte])
theorem RoundTrip.jmpInd (ptr : Addr) : RoundTrip.Statement (.jmpInd ptr) := fun _ =>
  (decode_f3 rfl _ _ []).trans (by rw [addrOf_loByte_hiByte])
theorem RoundTrip.jsr (a : Addr) : RoundTrip.Statement (.jsr a) := fun _ =>
  (decode_f3 rfl _ _ []).trans (by rw [addrOf_loByte_hiByte])
theorem RoundTrip.rts : RoundTrip.Statement .rts := fun _ => decode_f1 rfl []
theorem RoundTrip.rti : RoundTrip.Statement .rti := fun _ => decode_f1 rfl []
theorem RoundTrip.brk : RoundTrip.Statement .brk := fun _ => decode_f1 rfl []
theorem RoundTrip.clc : RoundTrip.Statement .clc := fun _ => decode_f1 rfl []
theorem RoundTrip.sec : RoundTrip.Statement .sec := fun _ => decode_f1 rfl []
theorem RoundTrip.cli : RoundTrip.Statement .cli := fun _ => decode_f1 rfl []
theorem RoundTrip.sei : RoundTrip.Statement .sei := fun _ => decode_f1 rfl []
theorem RoundTrip.cld : RoundTrip.Statement .cld := fun _ => decode_f1 rfl []
theorem RoundTrip.sed : RoundTrip.Statement .sed := fun _ => decode_f1 rfl []
theorem RoundTrip.clv : RoundTrip.Statement .clv := fun _ => decode_f1 rfl []
theorem RoundTrip.nop : RoundTrip.Statement .nop := fun _ => decode_f1 rfl []
theorem RoundTrip.und (op : Byte) : RoundTrip.Statement (.und op) := fun h => decode_f1 (opcodeFormat_undefined h) []

end Sys2Proof.Laws
end

