-- ==== Sys2Proof/Laws/Ppu.lean ====
section
/-! SUPPORT. What each part of a PPU clock can change: the lines of R313, pixel composition, the advance of the counters. -/

namespace Sys2Proof.Machine

variable {cart : Option Cartridge} {u : Ppu}

/-! ## The per-dot work -/

/-- What the per-dot work keeps: the registers, the memories, the counters and the frame buffer. -/
def dotFrame (u t : Ppu) : Prop :=
  t =
    { u with
      verticalBlank := t.verticalBlank
      spriteZeroHit := t.spriteZeroHit
      spriteOverflow := t.spriteOverflow
      v := t.v
      secOam := t.secOam
      spriteCount := t.spriteCount
      sprLo := t.sprLo
      sprHi := t.sprHi
      sprX := t.sprX
      zeroPossible := t.zeroPossible
      nxId := t.nxId
      nxAt := t.nxAt
      nxLo := t.nxLo
      nxHi := t.nxHi
      bgLo := t.bgLo
      bgHi := t.bgHi
      atLo := t.atLo
      atHi := t.atHi }

theorem dotFrame_refl (u : Ppu) : dotFrame u u := rfl

theorem dotFrame_trans {u t r : Ppu} (h : dotFrame u t) (h' : dotFrame t r) : dotFrame u r := by
  unfold dotFrame at *
  rw [h', h]

theorem lineA_frame (u : Ppu) : dotFrame u u.lineA := by
  unfold Ppu.lineA
  split <;> rfl

theorem shiftBackground_frame (u : Ppu) : dotFrame u u.shiftBackground := by
  unfold Ppu.shiftBackground
  split <;> rfl

theorem shiftSprites_frame (u : Ppu) : dotFrame u u.shiftSprites := by
  unfold Ppu.shiftSprites
  split <;> rfl

theorem incrementX_frame (u : Ppu) : dotFrame u u.incrementX := by
  unfold Ppu.incrementX
  split <;> rfl

theorem incrementY_frame (u : Ppu) : dotFrame u u.incrementY := by
  unfold Ppu.incrementY
  split <;> rfl

theorem copyX_frame (u : Ppu) : dotFrame u u.copyX := by
  unfold Ppu.copyX
  split <;> rfl

theorem copyY_frame (u : Ppu) : dotFrame u u.copyY := by
  unfold Ppu.copyY
  split <;> rfl

theorem tilePhase_frame (cart : Option Cartridge) (u : Ppu) : dotFrame u (u.tilePhase cart) := by
  unfold Ppu.tilePhase
  split <;> first | rfl | exact incrementX_frame u

theorem lineB_frame (cart : Option Cartridge) (u : Ppu) : dotFrame u (u.lineB cart) := by
  unfold Ppu.lineB
  split
  · exact dotFrame_trans (dotFrame_trans (shiftBackground_frame u) (shiftSprites_frame _)) (tilePhase_frame cart _)
  · rfl

theorem lineC_frame (u : Ppu) : dotFrame u u.lineC := by
  unfold Ppu.lineC
  split
  · exact incrementY_frame u
  · rfl

theorem lineD_frame (u : Ppu) : dotFrame u u.lineD := by
  unfold Ppu.lineD
  split
  · exact dotFrame_trans (t := u.loadShifters) rfl (copyX_frame _)
  · rfl

theorem lineE_frame (u : Ppu) : dotFrame u u.lineE := by
  unfold Ppu.lineE
  split
  · exact copyY_frame u
  · rfl

theorem lineF_frame (u : Ppu) : dotFrame u u.lineF := by
  unfold Ppu.lineF
  split <;> rfl

theorem lineG_frame (cart : Option Cartridge) (u : Ppu) : dotFrame u (u.lineG cart) := by
  unfold Ppu.lineG
  split <;> rfl

theorem lineH_frame (u : Ppu) : dotFrame u u.lineH := by
  unfold Ppu.lineH
  split <;> rfl

/-- The frame of the per-dot work (R313). -/
theorem dotWork_frame (cart : Option Cartridge) (u : Ppu) : dotFrame u (u.dotWork cart) := by
  unfold Ppu.dotWork
  exact dotFrame_trans (dotFrame_trans (dotFrame_trans (dotFrame_trans (dotFrame_trans (dotFrame_trans (dotFrame_trans
    (lineA_frame u) (lineB_frame cart _)) (lineC_frame _)) (lineD_frame _)) (lineE_frame _)) (lineF_frame _))
    (lineG_frame cart _)) (lineH_frame _)

/-! ## Composition and advance -/

/-- Composition changes the sprite-zero hit and one pixel (R351, R352). -/
theorem compose_frame (cart : Option Cartridge) (u : Ppu) :
    u.compose cart = { u with spriteZeroHit := (u.compose cart).spriteZeroHit, fb := (u.compose cart).fb } := by
  unfold Ppu.compose
  split <;> rfl

/-- The advance changes the two counters and `frame_complete` (R311). -/
theorem advance_frame (u : Ppu) :
    u.advance =
      { u with scanline := u.advance.scanline, dot := u.advance.dot, frameComplete := u.advance.frameComplete } := by
  unfold Ppu.advance
  split
  · split <;> rfl
  · rfl

/-- What a whole PPU clock keeps: the registers and the memories; `v` is not among them. -/
theorem clock_frame (cart : Option Cartridge) (u : Ppu) :
    u.clock cart =
      { u with
        verticalBlank := (u.clock cart).verticalBlank
        spriteZeroHit := (u.clock cart).spriteZeroHit
        spriteOverflow := (u.clock cart).spriteOverflow
        v := (u.clock cart).v
        secOam := (u.clock cart).secOam
        spriteCount := (u.clock cart).spriteCount
        sprLo := (u.clock cart).sprLo
        sprHi := (u.clock cart).sprHi
        sprX := (u.clock cart).sprX
        zeroPossible := (u.clock cart).zeroPossible
        scanline := (u.clock cart).scanline
        dot := (u.clock cart).dot
        frameComplete := (u.clock cart).frameComplete
        nxId := (u.clock cart).nxId
        nxAt := (u.clock cart).nxAt
        nxLo := (u.clock cart).nxLo
        nxHi := (u.clock cart).nxHi
        bgLo := (u.clock cart).bgLo
        bgHi := (u.clock cart).bgHi
        atLo := (u.clock cart).atLo
        atHi := (u.clock cart).atHi
        fb := (u.clock cart).fb } := by
  unfold Ppu.clock
  rw [advance_frame, compose_frame, dotWork_frame cart u]

section

variable {u t : Ppu} (h : dotFrame u t)

include h

theorem dotFrame_scanline : t.scanline = u.scanline := by rw [h]
theorem dotFrame_dot : t.dot = u.dot := by rw [h]
theorem dotFrame_frameComplete : t.frameComplete = u.frameComplete := by rw [h]
theorem dotFrame_fb : t.fb = u.fb := by rw [h]
theorem dotFrame_oam : t.oam = u.oam := by rw [h]
theorem dotFrame_pal : t.pal = u.pal := by rw [h]
theorem dotFrame_ctrl : t.ctrl = u.ctrl := by rw [h]
theorem dotFrame_mask : t.mask = u.mask := by rw [h]

end

/-- The counters and `frame_complete` after a clock depend only on the counters before it (R311). -/
theorem clock_counters (cart : Option Cartridge) (u : Ppu) :
    (u.clock cart).scanline = u.advance.scanline ∧ (u.clock cart).dot = u.advance.dot ∧
      (u.clock cart).frameComplete = u.advance.frameComplete := by
  have h := dotWork_frame cart u
  have hs := dotFrame_scanline h
  have hd := dotFrame_dot h
  have hf := dotFrame_frameComplete h
  unfold Ppu.clock
  rw [compose_frame]
  simp only [Ppu.advance, hs, hd, hf]
  split
  · split <;> exact ⟨rfl, rfl, rfl⟩
  · exact ⟨rfl, rfl, rfl⟩

/-! ## The status flags line by line -/

/-- The three status flags and the sprite-zero state after the per-dot work come from lines a, f and h alone. -/
def flagFrame (u t : Ppu) : Prop :=
  t.verticalBlank = u.verticalBlank ∧ t.spriteZeroHit = u.spriteZeroHit ∧ t.spriteOverflow = u.spriteOverflow

theorem flagFrame_trans {u t r : Ppu} (h : flagFrame u t) (h' : flagFrame t r) : flagFrame u r :=
  ⟨h'.1.trans h.1, h'.2.1.trans h.2.1, h'.2.2.trans h.2.2⟩

theorem incrementX_flags (u : Ppu) : flagFrame u u.incrementX := by
  unfold Ppu.incrementX
  split <;> exact ⟨rfl, rfl, rfl⟩

theorem tilePhase_flags (cart : Option Cartridge) (u : Ppu) : flagFrame u (u.tilePhase cart) := by
  unfold Ppu.tilePhase
  split <;> first | exact ⟨rfl, rfl, rfl⟩ | exact incrementX_flags u

theorem lineB_flags (cart : Option Cartridge) (u : Ppu) : flagFrame u (u.lineB cart) := by
  unfold Ppu.lineB
  split
  · refine flagFrame_trans (t := u.shiftBackground.shiftSprites) ?_ (tilePhase_flags cart _)
    refine flagFrame_trans (t := u.shiftBackground) ?_ ?_
    · unfold Ppu.shiftBackground
      split <;> exact ⟨rfl, rfl, rfl⟩
    · unfold Ppu.shiftSprites
      split <;> exact ⟨rfl, rfl, rfl⟩
  · exact ⟨rfl, rfl, rfl⟩

theorem lineC_flags (u : Ppu) : flagFrame u u.lineC := by
  unfold Ppu.lineC Ppu.incrementY
  split
  · split <;> exact ⟨rfl, rfl, rfl⟩
  · exact ⟨rfl, rfl, rfl⟩

theorem lineD_flags (u : Ppu) : flagFrame u u.lineD := by
  unfold Ppu.lineD Ppu.copyX
  split
  · split <;> exact ⟨rfl, rfl, rfl⟩
  · exact ⟨rfl, rfl, rfl⟩

theorem lineE_flags (u : Ppu) : flagFrame u u.lineE := by
  unfold Ppu.lineE Ppu.copyY
  split
  · split <;> exact ⟨rfl, rfl, rfl⟩
  · exact ⟨rfl, rfl, rfl⟩

theorem lineG_flags (cart : Option Cartridge) (u : Ppu) : flagFrame u (u.lineG cart) := by
  unfold Ppu.lineG
  split <;> exact ⟨rfl, rfl, rfl⟩

/-- Lines b to e keep the three flags and what `dotFrame` keeps. -/
theorem linesBE_flags (cart : Option Cartridge) (u : Ppu) :
    flagFrame u (u.lineB cart).lineC.lineD.lineE ∧ dotFrame u (u.lineB cart).lineC.lineD.lineE :=
  ⟨flagFrame_trans (flagFrame_trans (flagFrame_trans (lineB_flags cart u) (lineC_flags _)) (lineD_flags _)) (lineE_flags _),
    dotFrame_trans (dotFrame_trans (dotFrame_trans (lineB_frame cart u) (lineC_frame _)) (lineD_frame _)) (lineE_frame _)⟩

end Sys2Proof.Machine
end

