-- ==== Sys2Proof/Laws/Reset.lean ====
section
/-! SUPPORT. Reading the vectors at the top of the address space, and the whole of a reset of a machine with a cartridge in
one equation. -/

namespace Sys2Proof.Machine

/-- With a cartridge, a read of 0x8000 to 0xFFFF changes nothing. -/
theorem memRead_prg_state {a : Addr} (ha : 0x8000 ≤ a.toNat) {s : State} {c : Cartridge} (hc : s.cart = some c) :
    (memRead a s).2 = s := by
  simp [memRead, hc, cartCpuRead, nromCpu, ha]

/-- With no cartridge, a read of 0x8000 to 0xFFFF gives 0x00 and is logged. -/
theorem memRead_noCart {a : Addr} (ha : 0x8000 ≤ a.toNat) {s : State} (hc : s.cart = none) :
    memRead a s = (0x00#8, s.record (.outOfRange a false)) := by
  have h : busRegion a = .unclaimed := by
    have h4 : a ≠ 0x4014#16 := by rintro rfl; simp at ha
    have h6 : a ≠ 0x4016#16 := by rintro rfl; simp at ha
    have h7 : a ≠ 0x4017#16 := by rintro rfl; simp at ha
    unfold busRegion
    simp [h4, h6, h7, show ¬a.toNat ≤ 0x1FFF by omega, show ¬a.toNat ≤ 0x3FFF by omega]
  simp [memRead, hc, cartCpuRead, h]

/-- A reset with a cartridge, every field of the result. -/
theorem systemReset_eq (p : Params) {s : State} {c : Cartridge} (hc : s.cart = some c) :
    systemReset p s =
      { s with
        cpu :=
          { a := p.resetA, x := p.resetX, y := p.resetY, sp := p.resetSp, p := p.resetP, pc := busWord 0xFFFC#16 s,
            debt := p.resetCycles, cycles := 0 },
        ppu := ppuReset s.ppu,
        master := 0,
        dma := { state := .idle, page := 0x00#8, cursor := 0x00#8, data := 0x00#8 },
        ctrlShift := Vector.replicate 2 0#8,
        nmiPending := false,
        nmiArmed := false } := by
  simp only [systemReset, cpuReset, read16, busWord, busByte]
  rw [memRead_prg_state (by decide) hc, memRead_prg_state (by decide) hc]
  rfl

end Sys2Proof.Machine
end

