-- ==== Sys2Proof/Tests/Slice0.lean ====
section
/-! SUPPORT. Tests on single steps, with the results that spec/95_test_vectors.md gives, and for every statement with
hypotheses a concrete case that meets them. -/

set_option Elab.async false

namespace Sys2Proof.Tests

open Sys2Proof.Machine

/-! ## Helpers -/

/-- The standard cartridge of 95_test_vectors.md Part 2: one PRG bank, CHR-ROM, vectors 0x9000, 0x8000, 0x9100. -/
def cart : Cartridge where
  mapperId := 0#8
  prgBanks := 1#8
  chrBanks := 1#8
  mirroring := .horizontal
  prgLen := 16384
  prg := [(0x3FFB, 0x90#8), (0x3FFD, 0x80#8), (0x3FFF, 0x91#8)]
  chrLen := 8192
  chr := []

/-- A machine about to fetch, with these registers and these RAM bytes. -/
def machine (c : Cpu) (ram : Memory) : State := { State.reset with cpu := c, ram := ram, cart := some cart, log := [] }

/-- The next state of a result, or another one. -/
def orElse (r : Result) (s : State) : State :=
  match r with
  | .next t => t
  | _ => s

/-- The registers, and the bytes at some addresses, after a result. -/
def seen (r : Result) (addrs : List Addr) : Option (Cpu × List Byte) :=
  match r with
  | .next t => some (t.cpu, addrs.map fun a => busByte a t)
  | _ => none

/-- The registers, and some bytes, after one instruction is fetched and executed. -/
def ran (s : State) (addrs : List Addr) : Option (Cpu × List Byte) := seen (executeInstruction s) addrs

/-- A machine with the registers of table A's rows: A, X, Y 0, SP 0xFD, P 0x24, PC 0x0200. -/
def plain : State := machine ⟨0x00#8, 0x00#8, 0x00#8, 0xFD#8, 0x0200#16, 0x24#8, 0, 0⟩ []

/-! ## Well-formedness: each check refuses an ill-formed term -/

theorem test_wellFormed_und_defined_opcode : Instr.wellFormed (.und 0xA9#8) = false := by decide
theorem test_wellFormed_und_brk : Instr.wellFormed (.und 0x00#8) = false := by decide
theorem test_wellFormed_und_first_last :
    Instr.wellFormed (.und 0x02#8) = true ∧ Instr.wellFormed (.und 0xFF#8) = true := by decide
theorem test_wellFormed_operands :
    Instr.wellFormed (.ldaImm 0xFF#8) = true ∧ Instr.wellFormed (.jmpInd 0xFFFF#16) = true := by decide

/-! ## Decoding: words written out from the opcode map (30_encoding.md R121), one or more a family -/

theorem test_decode_load_store :
    decode [0xB5#8, 0x10#8] = .ok (.ldaZpX 0x10#8) [] ∧ decode [0xBE#8, 0x34#8, 0x12#8] = .ok (.ldxAbsY 0x1234#16) [] ∧
    decode [0x91#8, 0x20#8] = .ok (.staIndY 0x20#8) [] ∧ decode [0x84#8, 0xFF#8] = .ok (.styZp 0xFF#8) [] := by decide
theorem test_decode_transfer :
    decode [0xAA#8] = .ok .tax [] ∧ decode [0xBA#8] = .ok .tsx [] ∧ decode [0x98#8] = .ok .tya [] := by decide
theorem test_decode_incdec :
    decode [0xE6#8, 0x10#8] = .ok (.incZp 0x10#8) [] ∧ decode [0xDE#8, 0x00#8, 0x03#8] = .ok (.decAbsX 0x0300#16) [] ∧
    decode [0x88#8] = .ok .dey [] := by decide
theorem test_decode_shift :
    decode [0x0A#8] = .ok .aslAcc [] ∧ decode [0x5E#8, 0x00#8, 0x03#8] = .ok (.lsrAbsX 0x0300#16) [] ∧
    decode [0x26#8, 0x10#8] = .ok (.rolZp 0x10#8) [] := by decide
theorem test_decode_logical :
    decode [0x29#8, 0x0F#8] = .ok (.andImm 0x0F#8) [] ∧ decode [0x01#8, 0x10#8] = .ok (.oraIndX 0x10#8) [] ∧
    decode [0x2C#8, 0x00#8, 0x03#8] = .ok (.bitAbs 0x0300#16) [] := by decide
theorem test_decode_compare :
    decode [0xE4#8, 0x10#8] = .ok (.cpxZp 0x10#8) [] ∧ decode [0xCC#8, 0x00#8, 0x03#8] = .ok (.cpyAbs 0x0300#16) [] := by
  decide
theorem test_decode_add_subtract :
    decode [0x69#8, 0xFF#8] = .ok (.adcImm 0xFF#8) [] ∧ decode [0xF1#8, 0x10#8] = .ok (.sbcIndY 0x10#8) [] := by decide
theorem test_decode_branch :
    decode [0x90#8, 0xFD#8] = .ok (.bcc 0xFD#8) [] ∧ decode [0x70#8, 0x01#8] = .ok (.bvs 0x01#8) [] := by decide
theorem test_decode_stack : decode [0x48#8] = .ok .pha [] ∧ decode [0x28#8] = .ok .plp [] := by decide
theorem test_decode_jump :
    decode [0x4C#8, 0x34#8, 0x12#8] = .ok (.jmpAbs 0x1234#16) [] ∧ decode [0x20#8, 0x00#8, 0x03#8] = .ok (.jsr 0x0300#16) [] ∧
    decode [0x60#8] = .ok .rts [] ∧ decode [0x40#8] = .ok .rti [] := by decide
theorem test_decode_flags : decode [0x78#8] = .ok .sei [] ∧ decode [0xB8#8] = .ok .clv [] ∧ decode [0xEA#8] = .ok .nop [] := by
  decide
theorem test_decode_undefined : decode [0x80#8, 0x12#8] = .ok (.und 0x80#8) [0x12#8] := by decide
theorem test_decode_rejects_by_name :
    decode [] = .rejected .noOpcode ∧ decode [0xA9#8] = .rejected (.missingOperand 0xA9#8) ∧
    decode [0xAD#8, 0x34#8] = .rejected (.missingOperand 0xAD#8) := by decide
theorem test_decodeTableWord :
    decodeTableWord 16 0x65A9 = some (.ldaImm 0x65#8) ∧ decodeTableWord 24 0x1234AD = some (.ldaAbs 0x1234#16) ∧
    decodeTableWord 8 0x00 = some .brk ∧ decodeTableWord 8 0xAD = some (.ldaAbs 0x0000#16) := by decide

/-! ## Placing and running a word from reset -/

/-- LDA #$65 placed by `withFetchWord` runs in the next step. -/
theorem test_step_runs_placed_lda :
    (seen (step (State.reset.withFetchWord 16 0x65A9)) []).map (fun r => (r.1.a, r.1.pc, r.1.debt)) =
      some (0x65#8, 0x0002#16, 1) := by decide

/-- With a cartridge whose PC is in PRG the word goes to PRG. -/
theorem test_step_runs_placed_jmp_in_prg :
    (seen (step ((insertCartridge Params.default cart State.reset).withFetchWord 24 0x12344C)) []).map
      (fun r => (r.1.pc, r.1.debt)) = some (0x1234#16, 2) := by decide

/-- From reset the first step, in CPU slot 0, only counts one of the seven owed cycles down (R378, R441). -/
theorem test_step_from_reset :
    (seen (step State.reset) []).map (fun r => (r.1.debt, r.1.cycles, r.1.pc)) = some (6, 1, 0x0000#16) := by decide

/-! ## One instruction, tables A to J of 95_test_vectors.md -/

/-- Table A: LDA #$00. -/
theorem test_lda_1 :
    ran (machine ⟨0x55#8, 0x00#8, 0x00#8, 0xFD#8, 0x0200#16, 0xA4#8, 0, 0⟩ [(0x0200, 0xA9#8)])
      [] =
      some (⟨0x00#8, 0x00#8, 0x00#8, 0xFD#8, 0x0202#16, 0x26#8, 1, 0⟩, []) := by decide

/-- Table A: LDA #$80. -/
theorem test_lda_2 :
    ran (machine ⟨0x00#8, 0x00#8, 0x00#8, 0xFD#8, 0x0200#16, 0x24#8, 0, 0⟩ [(0x0200, 0xA9#8), (0x0201, 0x80#8)])
      [] =
      some (⟨0x80#8, 0x00#8, 0x00#8, 0xFD#8, 0x0202#16, 0xA4#8, 1, 0⟩, []) := by decide

/-- Table A: LDA $10,X (zero-page wrap: 0x10+0xF5 = 0x05, not 0x105). -/
theorem test_lda_3 :
    ran (machine ⟨0x00#8, 0xF5#8, 0x00#8, 0xFD#8, 0x0200#16, 0x24#8, 0, 0⟩ [(0x0005, 0x7E#8), (0x0105, 0x99#8), (0x0200, 0xB5#8), (0x0201, 0x10#8)])
      [] =
      some (⟨0x7E#8, 0xF5#8, 0x00#8, 0xFD#8, 0x0202#16, 0x24#8, 3, 0⟩, []) := by decide

/-- Table A: LDA $02F0,X (page crossed). -/
theorem test_lda_4 :
    ran (machine ⟨0x00#8, 0x20#8, 0x00#8, 0xFD#8, 0x0200#16, 0x24#8, 0, 0⟩ [(0x0200, 0xBD#8), (0x0201, 0xF0#8), (0x0202, 0x02#8), (0x0310, 0x42#8)])
      [] =
      some (⟨0x42#8, 0x20#8, 0x00#8, 0xFD#8, 0x0203#16, 0x24#8, 4, 0⟩, []) := by decide

/-- Table A: LDA $02F0,X (not crossed). -/
theorem test_lda_5 :
    ran (machine ⟨0x00#8, 0x05#8, 0x00#8, 0xFD#8, 0x0200#16, 0x24#8, 0, 0⟩ [(0x0200, 0xBD#8), (0x0201, 0xF0#8), (0x0202, 0x02#8), (0x02F5, 0x43#8)])
      [] =
      some (⟨0x43#8, 0x05#8, 0x00#8, 0xFD#8, 0x0203#16, 0x24#8, 3, 0⟩, []) := by decide

/-- Table A: LDA ($FE,X) (pointer at 0xFF and 0x00). -/
theorem test_lda_6 :
    ran (machine ⟨0x00#8, 0x01#8, 0x00#8, 0xFD#8, 0x0200#16, 0x24#8, 0, 0⟩ [(0x0000, 0x03#8), (0x00FF, 0x34#8), (0x0100, 0x07#8), (0x0200, 0xA1#8), (0x0201, 0xFE#8), (0x0334, 0xC1#8)])
      [] =
      some (⟨0xC1#8, 0x01#8, 0x00#8, 0xFD#8, 0x0202#16, 0xA4#8, 5, 0⟩, []) := by decide

/-- Table A: LDA ($FF),Y (pointer at 0xFF and 0x00; base 0x03F8 + 0x10 crosses). -/
theorem test_lda_7 :
    ran (machine ⟨0x00#8, 0x00#8, 0x10#8, 0xFD#8, 0x0200#16, 0x24#8, 0, 0⟩ [(0x0000, 0x03#8), (0x00FF, 0xF8#8), (0x0100, 0x07#8), (0x0200, 0xB1#8), (0x0201, 0xFF#8), (0x0408, 0x3C#8)])
      [] =
      some (⟨0x3C#8, 0x00#8, 0x10#8, 0xFD#8, 0x0202#16, 0x24#8, 5, 0⟩, []) := by decide

/-- Table A: LDX $10,Y (0x10+0xFF = 0x0F). -/
theorem test_ldx_1 :
    ran (machine ⟨0x00#8, 0x00#8, 0xFF#8, 0xFD#8, 0x0200#16, 0x24#8, 0, 0⟩ [(0x000F, 0x80#8), (0x0200, 0xB6#8), (0x0201, 0x10#8)])
      [] =
      some (⟨0x00#8, 0x80#8, 0xFF#8, 0xFD#8, 0x0202#16, 0xA4#8, 3, 0⟩, []) := by decide

/-- Table A: LDY $0300,X (0x03FF, no cross). -/
theorem test_ldy_1 :
    ran (machine ⟨0x00#8, 0xFF#8, 0x00#8, 0xFD#8, 0x0200#16, 0x24#8, 0, 0⟩ [(0x0200, 0xBC#8), (0x0202, 0x03#8)])
      [] =
      some (⟨0x00#8, 0xFF#8, 0x00#8, 0xFD#8, 0x0203#16, 0x26#8, 3, 0⟩, []) := by decide

/-- Table A: STA $0301,X (crosses; stores never pay). -/
theorem test_sta_1 :
    ran (machine ⟨0xAB#8, 0xFF#8, 0x00#8, 0xFD#8, 0x0200#16, 0x24#8, 0, 0⟩ [(0x0200, 0x9D#8), (0x0201, 0x01#8), (0x0202, 0x03#8)])
      [0x0400#16] =
      some (⟨0xAB#8, 0xFF#8, 0x00#8, 0xFD#8, 0x0203#16, 0x24#8, 4, 0⟩, [0xAB#8]) := by decide

/-- Table A: STA ($20),Y (crosses; no extra). -/
theorem test_sta_2 :
    ran (machine ⟨0x12#8, 0x00#8, 0xFF#8, 0xFD#8, 0x0200#16, 0x24#8, 0, 0⟩ [(0x0020, 0x01#8), (0x0021, 0x03#8), (0x0200, 0x91#8), (0x0201, 0x20#8)])
      [0x0400#16] =
      some (⟨0x12#8, 0x00#8, 0xFF#8, 0xFD#8, 0x0202#16, 0x24#8, 5, 0⟩, [0x12#8]) := by decide

/-- Table A: STX $10,Y. -/
theorem test_stx_1 :
    ran (machine ⟨0x00#8, 0x9C#8, 0x02#8, 0xFD#8, 0x0200#16, 0x24#8, 0, 0⟩ [(0x0200, 0x96#8), (0x0201, 0x10#8)])
      [0x0012#16] =
      some (⟨0x00#8, 0x9C#8, 0x02#8, 0xFD#8, 0x0202#16, 0x24#8, 3, 0⟩, [0x9C#8]) := by decide

/-- Table A: STY $FF (no flags). -/
theorem test_sty_1 :
    ran (machine ⟨0x00#8, 0x00#8, 0x00#8, 0xFD#8, 0x0200#16, 0xA4#8, 0, 0⟩ [(0x0200, 0x84#8), (0x0201, 0xFF#8)])
      [0x00FF#16] =
      some (⟨0x00#8, 0x00#8, 0x00#8, 0xFD#8, 0x0202#16, 0xA4#8, 2, 0⟩, [0x00#8]) := by decide

/-- Table A: STA $0800 (RAM mirror). -/
theorem test_sta_3 :
    ran (machine ⟨0x77#8, 0x00#8, 0x00#8, 0xFD#8, 0x0200#16, 0x24#8, 0, 0⟩ [(0x0200, 0x8D#8), (0x0202, 0x08#8)])
      [0x0000#16, 0x1000#16, 0x1800#16] =
      some (⟨0x77#8, 0x00#8, 0x00#8, 0xFD#8, 0x0203#16, 0x24#8, 3, 0⟩, [0x77#8, 0x77#8, 0x77#8]) := by decide

/-- Table B: TAX. -/
theorem test_tax_1 :
    ran (machine ⟨0x00#8, 0x05#8, 0x00#8, 0xFD#8, 0x0200#16, 0x24#8, 0, 0⟩ [(0x0200, 0xAA#8)])
      [] =
      some (⟨0x00#8, 0x00#8, 0x00#8, 0xFD#8, 0x0201#16, 0x26#8, 1, 0⟩, []) := by decide

/-- Table B: TAY. -/
theorem test_tay_1 :
    ran (machine ⟨0xF0#8, 0x00#8, 0x00#8, 0xFD#8, 0x0200#16, 0x24#8, 0, 0⟩ [(0x0200, 0xA8#8)])
      [] =
      some (⟨0xF0#8, 0x00#8, 0xF0#8, 0xFD#8, 0x0201#16, 0xA4#8, 1, 0⟩, []) := by decide

/-- Table B: TXA. -/
theorem test_txa_1 :
    ran (machine ⟨0x00#8, 0x7F#8, 0x00#8, 0xFD#8, 0x0200#16, 0xA6#8, 0, 0⟩ [(0x0200, 0x8A#8)])
      [] =
      some (⟨0x7F#8, 0x7F#8, 0x00#8, 0xFD#8, 0x0201#16, 0x24#8, 1, 0⟩, []) := by decide

/-- Table B: TYA. -/
theorem test_tya_1 :
    ran (machine ⟨0x00#8, 0x00#8, 0x80#8, 0xFD#8, 0x0200#16, 0x24#8, 0, 0⟩ [(0x0200, 0x98#8)])
      [] =
      some (⟨0x80#8, 0x00#8, 0x80#8, 0xFD#8, 0x0201#16, 0xA4#8, 1, 0⟩, []) := by decide

/-- Table B: TSX. -/
theorem test_tsx_1 :
    ran (machine ⟨0x00#8, 0x00#8, 0x00#8, 0xFD#8, 0x0200#16, 0x24#8, 0, 0⟩ [(0x0200, 0xBA#8)])
      [] =
      some (⟨0x00#8, 0xFD#8, 0x00#8, 0xFD#8, 0x0201#16, 0xA4#8, 1, 0⟩, []) := by decide

/-- Table B: TXS (no flags). -/
theorem test_txs_1 :
    ran (machine ⟨0x00#8, 0x00#8, 0x00#8, 0xFD#8, 0x0200#16, 0xA4#8, 0, 0⟩ [(0x0200, 0x9A#8)])
      [] =
      some (⟨0x00#8, 0x00#8, 0x00#8, 0x00#8, 0x0201#16, 0xA4#8, 1, 0⟩, []) := by decide

/-- Table C: INC $10. -/
theorem test_inc_1 :
    ran (machine ⟨0x00#8, 0x00#8, 0x00#8, 0xFD#8, 0x0200#16, 0x24#8, 0, 0⟩ [(0x0010, 0xFF#8), (0x0200, 0xE6#8), (0x0201, 0x10#8)])
      [0x0010#16] =
      some (⟨0x00#8, 0x00#8, 0x00#8, 0xFD#8, 0x0202#16, 0x26#8, 4, 0⟩, [0x00#8]) := by decide

/-- Table C: DEC $0300,X. -/
theorem test_dec_1 :
    ran (machine ⟨0x00#8, 0x01#8, 0x00#8, 0xFD#8, 0x0200#16, 0x24#8, 0, 0⟩ [(0x0200, 0xDE#8), (0x0202, 0x03#8)])
      [0x0301#16] =
      some (⟨0x00#8, 0x01#8, 0x00#8, 0xFD#8, 0x0203#16, 0xA4#8, 6, 0⟩, [0xFF#8]) := by decide

/-- Table C: INC $02FF,X (crosses; always 7). -/
theorem test_inc_2 :
    ran (machine ⟨0x00#8, 0x01#8, 0x00#8, 0xFD#8, 0x0200#16, 0x24#8, 0, 0⟩ [(0x0200, 0xFE#8), (0x0201, 0xFF#8), (0x0202, 0x02#8), (0x0300, 0x7F#8)])
      [0x0300#16] =
      some (⟨0x00#8, 0x01#8, 0x00#8, 0xFD#8, 0x0203#16, 0xA4#8, 6, 0⟩, [0x80#8]) := by decide

/-- Table C: INX. -/
theorem test_inx_1 :
    ran (machine ⟨0x00#8, 0xFF#8, 0x00#8, 0xFD#8, 0x0200#16, 0x24#8, 0, 0⟩ [(0x0200, 0xE8#8)])
      [] =
      some (⟨0x00#8, 0x00#8, 0x00#8, 0xFD#8, 0x0201#16, 0x26#8, 1, 0⟩, []) := by decide

/-- Table C: INY. -/
theorem test_iny_1 :
    ran (machine ⟨0x00#8, 0x00#8, 0x7F#8, 0xFD#8, 0x0200#16, 0x24#8, 0, 0⟩ [(0x0200, 0xC8#8)])
      [] =
      some (⟨0x00#8, 0x00#8, 0x80#8, 0xFD#8, 0x0201#16, 0xA4#8, 1, 0⟩, []) := by decide

/-- Table C: DEX. -/
theorem test_dex_1 :
    ran (machine ⟨0x00#8, 0x00#8, 0x00#8, 0xFD#8, 0x0200#16, 0x24#8, 0, 0⟩ [(0x0200, 0xCA#8)])
      [] =
      some (⟨0x00#8, 0xFF#8, 0x00#8, 0xFD#8, 0x0201#16, 0xA4#8, 1, 0⟩, []) := by decide

/-- Table C: DEY. -/
theorem test_dey_1 :
    ran (machine ⟨0x00#8, 0x00#8, 0x01#8, 0xFD#8, 0x0200#16, 0x24#8, 0, 0⟩ [(0x0200, 0x88#8)])
      [] =
      some (⟨0x00#8, 0x00#8, 0x00#8, 0xFD#8, 0x0201#16, 0x26#8, 1, 0⟩, []) := by decide

/-- Table D: ASL A. -/
theorem test_asl_1 :
    ran (machine ⟨0x81#8, 0x00#8, 0x00#8, 0xFD#8, 0x0200#16, 0x24#8, 0, 0⟩ [(0x0200, 0x0A#8)])
      [] =
      some (⟨0x02#8, 0x00#8, 0x00#8, 0xFD#8, 0x0201#16, 0x25#8, 1, 0⟩, []) := by decide

/-- Table D: ASL A (old carry not used). -/
theorem test_asl_2 :
    ran (machine ⟨0x40#8, 0x00#8, 0x00#8, 0xFD#8, 0x0200#16, 0x25#8, 0, 0⟩ [(0x0200, 0x0A#8)])
      [] =
      some (⟨0x80#8, 0x00#8, 0x00#8, 0xFD#8, 0x0201#16, 0xA4#8, 1, 0⟩, []) := by decide

/-- Table D: LSR A. -/
theorem test_lsr_1 :
    ran (machine ⟨0x01#8, 0x00#8, 0x00#8, 0xFD#8, 0x0200#16, 0xA4#8, 0, 0⟩ [(0x0200, 0x4A#8)])
      [] =
      some (⟨0x00#8, 0x00#8, 0x00#8, 0xFD#8, 0x0201#16, 0x27#8, 1, 0⟩, []) := by decide

/-- Table D: ROL A. -/
theorem test_rol_1 :
    ran (machine ⟨0x80#8, 0x00#8, 0x00#8, 0xFD#8, 0x0200#16, 0x25#8, 0, 0⟩ [(0x0200, 0x2A#8)])
      [] =
      some (⟨0x01#8, 0x00#8, 0x00#8, 0xFD#8, 0x0201#16, 0x25#8, 1, 0⟩, []) := by decide

/-- Table D: ROL A. -/
theorem test_rol_2 :
    ran (machine ⟨0x80#8, 0x00#8, 0x00#8, 0xFD#8, 0x0200#16, 0x24#8, 0, 0⟩ [(0x0200, 0x2A#8)])
      [] =
      some (⟨0x00#8, 0x00#8, 0x00#8, 0xFD#8, 0x0201#16, 0x27#8, 1, 0⟩, []) := by decide

/-- Table D: ROR A. -/
theorem test_ror_1 :
    ran (machine ⟨0x01#8, 0x00#8, 0x00#8, 0xFD#8, 0x0200#16, 0x25#8, 0, 0⟩ [(0x0200, 0x6A#8)])
      [] =
      some (⟨0x80#8, 0x00#8, 0x00#8, 0xFD#8, 0x0201#16, 0xA5#8, 1, 0⟩, []) := by decide

/-- Table D: ROR $10. -/
theorem test_ror_2 :
    ran (machine ⟨0x00#8, 0x00#8, 0x00#8, 0xFD#8, 0x0200#16, 0x24#8, 0, 0⟩ [(0x0010, 0x02#8), (0x0200, 0x66#8), (0x0201, 0x10#8)])
      [0x0010#16] =
      some (⟨0x00#8, 0x00#8, 0x00#8, 0xFD#8, 0x0202#16, 0x24#8, 4, 0⟩, [0x01#8]) := by decide

/-- Table D: LSR $0300,X. -/
theorem test_lsr_2 :
    ran (machine ⟨0x00#8, 0x02#8, 0x00#8, 0xFD#8, 0x0200#16, 0x24#8, 0, 0⟩ [(0x0200, 0x5E#8), (0x0202, 0x03#8), (0x0302, 0xFF#8)])
      [0x0302#16] =
      some (⟨0x00#8, 0x02#8, 0x00#8, 0xFD#8, 0x0203#16, 0x25#8, 6, 0⟩, [0x7F#8]) := by decide

/-- Table D: ASL $10,X (0x10+0xF8 = 0x08). -/
theorem test_asl_3 :
    ran (machine ⟨0x00#8, 0xF8#8, 0x00#8, 0xFD#8, 0x0200#16, 0x24#8, 0, 0⟩ [(0x0008, 0x55#8), (0x0200, 0x16#8), (0x0201, 0x10#8)])
      [0x0008#16] =
      some (⟨0x00#8, 0xF8#8, 0x00#8, 0xFD#8, 0x0202#16, 0xA4#8, 5, 0⟩, [0xAA#8]) := by decide

/-- Table E: AND #$0F. -/
theorem test_and_1 :
    ran (machine ⟨0xF0#8, 0x00#8, 0x00#8, 0xFD#8, 0x0200#16, 0x24#8, 0, 0⟩ [(0x0200, 0x29#8), (0x0201, 0x0F#8)])
      [] =
      some (⟨0x00#8, 0x00#8, 0x00#8, 0xFD#8, 0x0202#16, 0x26#8, 1, 0⟩, []) := by decide

/-- Table E: ORA #$80. -/
theorem test_ora_1 :
    ran (machine ⟨0x01#8, 0x00#8, 0x00#8, 0xFD#8, 0x0200#16, 0x24#8, 0, 0⟩ [(0x0200, 0x09#8), (0x0201, 0x80#8)])
      [] =
      some (⟨0x81#8, 0x00#8, 0x00#8, 0xFD#8, 0x0202#16, 0xA4#8, 1, 0⟩, []) := by decide

/-- Table E: EOR #$FF. -/
theorem test_eor_1 :
    ran (machine ⟨0xFF#8, 0x00#8, 0x00#8, 0xFD#8, 0x0200#16, 0x24#8, 0, 0⟩ [(0x0200, 0x49#8), (0x0201, 0xFF#8)])
      [] =
      some (⟨0x00#8, 0x00#8, 0x00#8, 0xFD#8, 0x0202#16, 0x26#8, 1, 0⟩, []) := by decide

/-- Table E: EOR ($10),Y (base 0x02FF + 1 crosses). -/
theorem test_eor_2 :
    ran (machine ⟨0x0F#8, 0x00#8, 0x01#8, 0xFD#8, 0x0200#16, 0x24#8, 0, 0⟩ [(0x0010, 0xFF#8), (0x0011, 0x02#8), (0x0200, 0x51#8), (0x0201, 0x10#8), (0x0300, 0xF0#8)])
      [] =
      some (⟨0xFF#8, 0x00#8, 0x01#8, 0xFD#8, 0x0202#16, 0xA4#8, 5, 0⟩, []) := by decide

/-- Table E: BIT $10 (Z from A and M; N, V from M). -/
theorem test_bit_1 :
    ran (machine ⟨0x01#8, 0x00#8, 0x00#8, 0xFD#8, 0x0200#16, 0x24#8, 0, 0⟩ [(0x0010, 0xC0#8), (0x0200, 0x24#8), (0x0201, 0x10#8)])
      [] =
      some (⟨0x01#8, 0x00#8, 0x00#8, 0xFD#8, 0x0202#16, 0xE6#8, 2, 0⟩, []) := by decide

/-- Table E: BIT $0300. -/
theorem test_bit_2 :
    ran (machine ⟨0xFF#8, 0x00#8, 0x00#8, 0xFD#8, 0x0200#16, 0xE6#8, 0, 0⟩ [(0x0200, 0x2C#8), (0x0202, 0x03#8), (0x0300, 0x3F#8)])
      [] =
      some (⟨0xFF#8, 0x00#8, 0x00#8, 0xFD#8, 0x0203#16, 0x24#8, 3, 0⟩, []) := by decide

/-- Table F: CMP #$40 (equal). -/
theorem test_cmp_1 :
    ran (machine ⟨0x40#8, 0x00#8, 0x00#8, 0xFD#8, 0x0200#16, 0x24#8, 0, 0⟩ [(0x0200, 0xC9#8), (0x0201, 0x40#8)])
      [] =
      some (⟨0x40#8, 0x00#8, 0x00#8, 0xFD#8, 0x0202#16, 0x27#8, 1, 0⟩, []) := by decide

/-- Table F: CMP #$41 (less). -/
theorem test_cmp_2 :
    ran (machine ⟨0x40#8, 0x00#8, 0x00#8, 0xFD#8, 0x0200#16, 0x24#8, 0, 0⟩ [(0x0200, 0xC9#8), (0x0201, 0x41#8)])
      [] =
      some (⟨0x40#8, 0x00#8, 0x00#8, 0xFD#8, 0x0202#16, 0xA4#8, 1, 0⟩, []) := by decide

/-- Table F: CPX $10. -/
theorem test_cpx_1 :
    ran (machine ⟨0x00#8, 0x10#8, 0x00#8, 0xFD#8, 0x0200#16, 0x24#8, 0, 0⟩ [(0x0010, 0x0F#8), (0x0200, 0xE4#8), (0x0201, 0x10#8)])
      [] =
      some (⟨0x00#8, 0x10#8, 0x00#8, 0xFD#8, 0x0202#16, 0x25#8, 2, 0⟩, []) := by decide

/-- Table F: CPY $0300 (V untouched). -/
theorem test_cpy_1 :
    ran (machine ⟨0x00#8, 0x00#8, 0x7F#8, 0xFD#8, 0x0200#16, 0x64#8, 0, 0⟩ [(0x0200, 0xCC#8), (0x0202, 0x03#8), (0x0300, 0x80#8)])
      [] =
      some (⟨0x00#8, 0x00#8, 0x7F#8, 0xFD#8, 0x0203#16, 0xE4#8, 3, 0⟩, []) := by decide

/-- Table G: ADC #$FF (source example S1). -/
theorem test_adc_1 :
    ran (machine ⟨0x80#8, 0x00#8, 0x00#8, 0xFD#8, 0x0200#16, 0x24#8, 0, 0⟩ [(0x0200, 0x69#8), (0x0201, 0xFF#8)])
      [] =
      some (⟨0x7F#8, 0x00#8, 0x00#8, 0xFD#8, 0x0202#16, 0x65#8, 1, 0⟩, []) := by decide

/-- Table G: ADC #$01. -/
theorem test_adc_2 :
    ran (machine ⟨0x7F#8, 0x00#8, 0x00#8, 0xFD#8, 0x0200#16, 0x24#8, 0, 0⟩ [(0x0200, 0x69#8), (0x0201, 0x01#8)])
      [] =
      some (⟨0x80#8, 0x00#8, 0x00#8, 0xFD#8, 0x0202#16, 0xE4#8, 1, 0⟩, []) := by decide

/-- Table G: SBC #$01. -/
theorem test_sbc_1 :
    ran (machine ⟨0x00#8, 0x00#8, 0x00#8, 0xFD#8, 0x0200#16, 0x25#8, 0, 0⟩ [(0x0200, 0xE9#8), (0x0201, 0x01#8)])
      [] =
      some (⟨0xFF#8, 0x00#8, 0x00#8, 0xFD#8, 0x0202#16, 0xA4#8, 1, 0⟩, []) := by decide

/-- Table G: SBC #$01. -/
theorem test_sbc_2 :
    ran (machine ⟨0x80#8, 0x00#8, 0x00#8, 0xFD#8, 0x0200#16, 0x25#8, 0, 0⟩ [(0x0200, 0xE9#8), (0x0201, 0x01#8)])
      [] =
      some (⟨0x7F#8, 0x00#8, 0x00#8, 0xFD#8, 0x0202#16, 0x65#8, 1, 0⟩, []) := by decide

/-- Table H: BNE +5, taken. -/
theorem test_bne_1 :
    ran (machine ⟨0x00#8, 0x00#8, 0x00#8, 0xFD#8, 0x0200#16, 0x24#8, 0, 0⟩ [(0x0200, 0xD0#8), (0x0201, 0x05#8)])
      [] =
      some (⟨0x00#8, 0x00#8, 0x00#8, 0xFD#8, 0x0207#16, 0x24#8, 2, 0⟩, []) := by decide

/-- Table H: BNE +5, not taken. -/
theorem test_bne_2 :
    ran (machine ⟨0x00#8, 0x00#8, 0x00#8, 0xFD#8, 0x0200#16, 0x26#8, 0, 0⟩ [(0x0200, 0xD0#8), (0x0201, 0x05#8)])
      [] =
      some (⟨0x00#8, 0x00#8, 0x00#8, 0xFD#8, 0x0202#16, 0x26#8, 1, 0⟩, []) := by decide

/-- Table H: BEQ -2 (to itself). -/
theorem test_beq_1 :
    ran (machine ⟨0x00#8, 0x00#8, 0x00#8, 0xFD#8, 0x0200#16, 0x26#8, 0, 0⟩ [(0x0200, 0xF0#8), (0x0201, 0xFE#8)])
      [] =
      some (⟨0x00#8, 0x00#8, 0x00#8, 0xFD#8, 0x0200#16, 0x26#8, 2, 0⟩, []) := by decide

/-- Table H: BCC -3 (next 0x0202, target 0x01FF: crossed). -/
theorem test_bcc_1 :
    ran (machine ⟨0x00#8, 0x00#8, 0x00#8, 0xFD#8, 0x0200#16, 0x24#8, 0, 0⟩ [(0x0200, 0x90#8), (0x0201, 0xFD#8)])
      [] =
      some (⟨0x00#8, 0x00#8, 0x00#8, 0xFD#8, 0x01FF#16, 0x24#8, 3, 0⟩, []) := by decide

/-- Table H: BCS +127 (next 0x02F2, target 0x0371: crossed). -/
theorem test_bcs_1 :
    ran (machine ⟨0x00#8, 0x00#8, 0x00#8, 0xFD#8, 0x02F0#16, 0x25#8, 0, 0⟩ [(0x02F0, 0xB0#8), (0x02F1, 0x7F#8)])
      [] =
      some (⟨0x00#8, 0x00#8, 0x00#8, 0xFD#8, 0x0371#16, 0x25#8, 3, 0⟩, []) := by decide

/-- Table H: BPL +2 (next 0x02FF, target 0x0301: crossed). -/
theorem test_bpl_1 :
    ran (machine ⟨0x00#8, 0x00#8, 0x00#8, 0xFD#8, 0x02FD#16, 0x24#8, 0, 0⟩ [(0x02FD, 0x10#8), (0x02FE, 0x02#8)])
      [] =
      some (⟨0x00#8, 0x00#8, 0x00#8, 0xFD#8, 0x0301#16, 0x24#8, 3, 0⟩, []) := by decide

/-- Table H: BMI +0, taken. -/
theorem test_bmi_1 :
    ran (machine ⟨0x00#8, 0x00#8, 0x00#8, 0xFD#8, 0x0200#16, 0xA4#8, 0, 0⟩ [(0x0200, 0x30#8)])
      [] =
      some (⟨0x00#8, 0x00#8, 0x00#8, 0xFD#8, 0x0202#16, 0xA4#8, 2, 0⟩, []) := by decide

/-- Table H: BVC -128 (target 0x0182: crossed). -/
theorem test_bvc_1 :
    ran (machine ⟨0x00#8, 0x00#8, 0x00#8, 0xFD#8, 0x0200#16, 0x24#8, 0, 0⟩ [(0x0200, 0x50#8), (0x0201, 0x80#8)])
      [] =
      some (⟨0x00#8, 0x00#8, 0x00#8, 0xFD#8, 0x0182#16, 0x24#8, 3, 0⟩, []) := by decide

/-- Table H: BVS +1, not taken. -/
theorem test_bvs_1 :
    ran (machine ⟨0x00#8, 0x00#8, 0x00#8, 0xFD#8, 0x0200#16, 0x24#8, 0, 0⟩ [(0x0200, 0x70#8), (0x0201, 0x01#8)])
      [] =
      some (⟨0x00#8, 0x00#8, 0x00#8, 0xFD#8, 0x0202#16, 0x24#8, 1, 0⟩, []) := by decide

/-- Table I: PHA. -/
theorem test_pha_1 :
    ran (machine ⟨0xAB#8, 0x00#8, 0x00#8, 0xFD#8, 0x0200#16, 0x24#8, 0, 0⟩ [(0x0200, 0x48#8)])
      [0x01FD#16] =
      some (⟨0xAB#8, 0x00#8, 0x00#8, 0xFC#8, 0x0201#16, 0x24#8, 2, 0⟩, [0xAB#8]) := by decide

/-- Table I: PHA (wrap). -/
theorem test_pha_2 :
    ran (machine ⟨0xCD#8, 0x00#8, 0x00#8, 0x00#8, 0x0200#16, 0x24#8, 0, 0⟩ [(0x0200, 0x48#8)])
      [0x0100#16] =
      some (⟨0xCD#8, 0x00#8, 0x00#8, 0xFF#8, 0x0201#16, 0x24#8, 2, 0⟩, [0xCD#8]) := by decide

/-- Table I: PHP (pushes B and U set; P unchanged). -/
theorem test_php_1 :
    ran (machine ⟨0x00#8, 0x00#8, 0x00#8, 0xFD#8, 0x0200#16, 0xA5#8, 0, 0⟩ [(0x0200, 0x08#8)])
      [0x01FD#16] =
      some (⟨0x00#8, 0x00#8, 0x00#8, 0xFC#8, 0x0201#16, 0xA5#8, 2, 0⟩, [0xB5#8]) := by decide

/-- Table I: PLA (wrap). -/
theorem test_pla_1 :
    ran (machine ⟨0x09#8, 0x00#8, 0x00#8, 0xFF#8, 0x0200#16, 0x24#8, 0, 0⟩ [(0x0200, 0x68#8)])
      [] =
      some (⟨0x00#8, 0x00#8, 0x00#8, 0x00#8, 0x0201#16, 0x26#8, 3, 0⟩, []) := by decide

/-- Table I: PLA. -/
theorem test_pla_2 :
    ran (machine ⟨0x00#8, 0x00#8, 0x00#8, 0xFC#8, 0x0200#16, 0x24#8, 0, 0⟩ [(0x01FD, 0x80#8), (0x0200, 0x68#8)])
      [] =
      some (⟨0x80#8, 0x00#8, 0x00#8, 0xFD#8, 0x0201#16, 0xA4#8, 3, 0⟩, []) := by decide

/-- Table I: PLP (B ignored, U forced). -/
theorem test_plp_1 :
    ran (machine ⟨0x00#8, 0x00#8, 0x00#8, 0xFC#8, 0x0200#16, 0x24#8, 0, 0⟩ [(0x01FD, 0xFF#8), (0x0200, 0x28#8)])
      [] =
      some (⟨0x00#8, 0x00#8, 0x00#8, 0xFD#8, 0x0201#16, 0xEF#8, 3, 0⟩, []) := by decide

/-- Table I: PLP. -/
theorem test_plp_2 :
    ran (machine ⟨0x00#8, 0x00#8, 0x00#8, 0xFC#8, 0x0200#16, 0xE7#8, 0, 0⟩ [(0x0200, 0x28#8)])
      [] =
      some (⟨0x00#8, 0x00#8, 0x00#8, 0xFD#8, 0x0201#16, 0x20#8, 3, 0⟩, []) := by decide

/-- Table J: JMP $1234. -/
theorem test_jmp_1 :
    ran (machine ⟨0x00#8, 0x00#8, 0x00#8, 0xFD#8, 0x0200#16, 0x24#8, 0, 0⟩ [(0x0200, 0x4C#8), (0x0201, 0x34#8), (0x0202, 0x12#8)])
      [] =
      some (⟨0x00#8, 0x00#8, 0x00#8, 0xFD#8, 0x1234#16, 0x24#8, 2, 0⟩, []) := by decide

/-- Table J: JMP ($0310). -/
theorem test_jmp_2 :
    ran (machine ⟨0x00#8, 0x00#8, 0x00#8, 0xFD#8, 0x0200#16, 0x24#8, 0, 0⟩ [(0x0200, 0x6C#8), (0x0201, 0x10#8), (0x0202, 0x03#8), (0x0310, 0x78#8), (0x0311, 0x56#8)])
      [] =
      some (⟨0x00#8, 0x00#8, 0x00#8, 0xFD#8, 0x5678#16, 0x24#8, 4, 0⟩, []) := by decide

/-- Table J: JMP ($02FF), at 0x0400 (source example S3). -/
theorem test_jmp_3 :
    ran (machine ⟨0x00#8, 0x00#8, 0x00#8, 0xFD#8, 0x0400#16, 0x24#8, 0, 0⟩ [(0x0200, 0x03#8), (0x0300, 0x09#8), (0x0400, 0x6C#8), (0x0401, 0xFF#8), (0x0402, 0x02#8)])
      [] =
      some (⟨0x00#8, 0x00#8, 0x00#8, 0xFD#8, 0x0300#16, 0x24#8, 4, 0⟩, []) := by decide

/-- Table J: JSR $0300, at 0x0200 (pushes 0x0202). -/
theorem test_jsr_1 :
    ran (machine ⟨0x00#8, 0x00#8, 0x00#8, 0xFD#8, 0x0200#16, 0x24#8, 0, 0⟩ [(0x0200, 0x20#8), (0x0202, 0x03#8)])
      [0x01FD#16, 0x01FC#16] =
      some (⟨0x00#8, 0x00#8, 0x00#8, 0xFB#8, 0x0300#16, 0x24#8, 5, 0⟩, [0x02#8, 0x02#8]) := by decide

/-- Table J: RTS, at 0x0300. -/
theorem test_rts_1 :
    ran (machine ⟨0x00#8, 0x00#8, 0x00#8, 0xFB#8, 0x0300#16, 0x24#8, 0, 0⟩ [(0x01FC, 0x02#8), (0x01FD, 0x02#8), (0x0300, 0x60#8)])
      [] =
      some (⟨0x00#8, 0x00#8, 0x00#8, 0xFD#8, 0x0203#16, 0x24#8, 5, 0⟩, []) := by decide

/-- Table J: RTS (0xFFFF + 1 wraps). -/
theorem test_rts_2 :
    ran (machine ⟨0x00#8, 0x00#8, 0x00#8, 0xFB#8, 0x0200#16, 0x24#8, 0, 0⟩ [(0x01FC, 0xFF#8), (0x01FD, 0xFF#8), (0x0200, 0x60#8)])
      [] =
      some (⟨0x00#8, 0x00#8, 0x00#8, 0xFD#8, 0x0000#16, 0x24#8, 5, 0⟩, []) := by decide

/-- Table J: RTI. -/
theorem test_rti_1 :
    ran (machine ⟨0x00#8, 0x00#8, 0x00#8, 0xFA#8, 0x0200#16, 0x24#8, 0, 0⟩ [(0x01FB, 0xD3#8), (0x01FC, 0x05#8), (0x01FD, 0x80#8), (0x0200, 0x40#8)])
      [] =
      some (⟨0x00#8, 0x00#8, 0x00#8, 0xFD#8, 0x8005#16, 0xE3#8, 5, 0⟩, []) := by decide

/-- Table J: BRK, at 0x0200 (pushes 0x0202 and P or 0x30). -/
theorem test_brk_1 :
    ran (machine ⟨0x00#8, 0x00#8, 0x00#8, 0xFD#8, 0x0200#16, 0x24#8, 0, 0⟩ [(0x0201, 0xEA#8)])
      [0x01FD#16, 0x01FC#16, 0x01FB#16] =
      some (⟨0x00#8, 0x00#8, 0x00#8, 0xFA#8, 0x9100#16, 0x24#8, 6, 0⟩, [0x02#8, 0x02#8, 0x34#8]) := by decide

/-- Table J: BRK, at 0x0200. -/
theorem test_brk_2 :
    ran (machine ⟨0x00#8, 0x00#8, 0x00#8, 0xFD#8, 0x0200#16, 0xE3#8, 0, 0⟩ [(0x0201, 0xEA#8)])
      [0x01FB#16] =
      some (⟨0x00#8, 0x00#8, 0x00#8, 0xFA#8, 0x9100#16, 0xE7#8, 6, 0⟩, [0xF3#8]) := by decide

/-- Table J: CLC. -/
theorem test_clc_1 :
    ran (machine ⟨0x00#8, 0x00#8, 0x00#8, 0xFD#8, 0x0200#16, 0x25#8, 0, 0⟩ [(0x0200, 0x18#8)])
      [] =
      some (⟨0x00#8, 0x00#8, 0x00#8, 0xFD#8, 0x0201#16, 0x24#8, 1, 0⟩, []) := by decide

/-- Table J: SEC. -/
theorem test_sec_1 :
    ran (machine ⟨0x00#8, 0x00#8, 0x00#8, 0xFD#8, 0x0200#16, 0x24#8, 0, 0⟩ [(0x0200, 0x38#8)])
      [] =
      some (⟨0x00#8, 0x00#8, 0x00#8, 0xFD#8, 0x0201#16, 0x25#8, 1, 0⟩, []) := by decide

/-- Table J: CLI. -/
theorem test_cli_1 :
    ran (machine ⟨0x00#8, 0x00#8, 0x00#8, 0xFD#8, 0x0200#16, 0x24#8, 0, 0⟩ [(0x0200, 0x58#8)])
      [] =
      some (⟨0x00#8, 0x00#8, 0x00#8, 0xFD#8, 0x0201#16, 0x20#8, 1, 0⟩, []) := by decide

/-- Table J: SEI. -/
theorem test_sei_1 :
    ran (machine ⟨0x00#8, 0x00#8, 0x00#8, 0xFD#8, 0x0200#16, 0x20#8, 0, 0⟩ [(0x0200, 0x78#8)])
      [] =
      some (⟨0x00#8, 0x00#8, 0x00#8, 0xFD#8, 0x0201#16, 0x24#8, 1, 0⟩, []) := by decide

/-- Table J: CLD. -/
theorem test_cld_1 :
    ran (machine ⟨0x00#8, 0x00#8, 0x00#8, 0xFD#8, 0x0200#16, 0x2C#8, 0, 0⟩ [(0x0200, 0xD8#8)])
      [] =
      some (⟨0x00#8, 0x00#8, 0x00#8, 0xFD#8, 0x0201#16, 0x24#8, 1, 0⟩, []) := by decide

/-- Table J: SED. -/
theorem test_sed_1 :
    ran (machine ⟨0x00#8, 0x00#8, 0x00#8, 0xFD#8, 0x0200#16, 0x24#8, 0, 0⟩ [(0x0200, 0xF8#8)])
      [] =
      some (⟨0x00#8, 0x00#8, 0x00#8, 0xFD#8, 0x0201#16, 0x2C#8, 1, 0⟩, []) := by decide

/-- Table J: CLV. -/
theorem test_clv_1 :
    ran (machine ⟨0x00#8, 0x00#8, 0x00#8, 0xFD#8, 0x0200#16, 0x64#8, 0, 0⟩ [(0x0200, 0xB8#8)])
      [] =
      some (⟨0x00#8, 0x00#8, 0x00#8, 0xFD#8, 0x0201#16, 0x24#8, 1, 0⟩, []) := by decide

/-- Table J: NOP. -/
theorem test_nop_1 :
    ran (machine ⟨0x01#8, 0x02#8, 0x03#8, 0xFD#8, 0x0200#16, 0xE7#8, 0, 0⟩ [(0x0200, 0xEA#8)])
      [] =
      some (⟨0x01#8, 0x02#8, 0x03#8, 0xFD#8, 0x0201#16, 0xE7#8, 1, 0⟩, []) := by decide

/-- Table A: LDA $5000 (unclaimed): reads 0 and is logged. -/
theorem test_lda_unclaimed_logged :
    (orElse (exec (.ldaAbs 0x5000#16) { plain with cpu := { plain.cpu with a := 0x77#8 } }) plain).log =
      [.outOfRange 0x5000#16 false] := by decide

/-- Table A: STA $5000 (unclaimed) and STA $8000 (claimed, discarded, not logged). -/
theorem test_sta_unclaimed_and_prg :
    (orElse (exec (.staAbs 0x5000#16) plain) plain).log = [.outOfRange 0x5000#16 true] ∧
    (orElse (exec (.staAbs 0x8000#16) plain) plain).log = [] ∧
    (orElse (exec (.staAbs 0xBFFF#16) plain) plain).cart = some cart := by decide

/-- Table K: 02 FF: a 2-cycle no-op that is logged. -/
theorem test_und_1 :
    ran (machine ⟨0x01#8, 0x02#8, 0x03#8, 0xFD#8, 0x0200#16, 0xE7#8, 0, 0⟩ [(0x0200, 0x02#8), (0x0201, 0xFF#8)]) [] =
      some (⟨0x01#8, 0x02#8, 0x03#8, 0xFD#8, 0x0201#16, 0xE7#8, 1, 0⟩, []) ∧
    (orElse (exec (.und 0x02#8) { plain with cpu := { plain.cpu with pc := 0x0201#16 } }) plain).log =
      [.undefinedOpcode 0x02#8 0x0200#16] := by decide

/-! ## Interrupt entry, table L -/

theorem test_nmi_entry :
    seen (.next (cpuNmi (machine ⟨0x00#8, 0x00#8, 0x00#8, 0x80#8, 0x8123#16, 0x27#8, 3, 0⟩ [])))
      [0x0180#16, 0x017F#16, 0x017E#16] =
      some (⟨0x00#8, 0x00#8, 0x00#8, 0x7D#8, 0x9000#16, 0x27#8, 10, 0⟩, [0x81#8, 0x23#8, 0x27#8]) := by decide
theorem test_irq_entry :
    seen (.next (cpuIrq (machine ⟨0x00#8, 0x00#8, 0x00#8, 0xFD#8, 0x8005#16, 0x20#8, 1, 0⟩ [])))
      [0x01FD#16, 0x01FC#16, 0x01FB#16] =
      some (⟨0x00#8, 0x00#8, 0x00#8, 0xFA#8, 0x9100#16, 0x24#8, 8, 0⟩, [0x80#8, 0x05#8, 0x20#8]) := by decide
theorem test_irq_masked : cpuIrq plain = plain := by decide

/-! ## PPU registers, sequences T1 to T4; sprite evaluation S7; scroll corner cases of table M -/

/-- T1 steps 1 to 3. -/
theorem test_scroll_writes :
    let s := memWrite 0x2000#16 0x03#8 (memWrite 0x2005#16 0x5E#8 (memWrite 0x2005#16 0x7D#8 plain))
    s.ppu.fineX = 5#3 ∧ s.ppu.t = 0x6D6F#15 ∧ s.ppu.w = false ∧ s.ppu.v = 0#15 := by decide
/-- T1 steps 6, 7 and 9: the address port through a mirror, then a data write with the increment 32. -/
theorem test_address_and_data_writes :
    let s := memWrite 0x3FFE#16 0x08#8 (memWrite 0x2006#16 0x21#8 plain)
    let t := memWrite 0x2007#16 0xAA#8 (memWrite 0x2000#16 0x04#8 s)
    s.ppu.v = 0x2108#15 ∧ t.ppu.v = 0x2128#15 ∧ Memory.read t.ppu.nt 0x108 = 0xAA#8 := by decide
/-- T2: a palette read through a mirror has no delay and is masked. -/
theorem test_palette_read :
    let s := { plain with ppu := { plain.ppu with v := 0x3F14#15, pal := [(4, 0xFF#8)] } }
    busByte 0x2007#16 s = 0x3F#8 ∧
    busByte 0x2007#16 { s with ppu := { s.ppu with v := 0x3FE4#15 } } = 0x3F#8 ∧
    busByte 0x2007#16 { s with ppu := { s.ppu with v := 0x3F04#15, mask := 0x01#8 } } = 0x30#8 := by decide
/-- T3: `ctrl_in[0]` = 0x91 shifts out 1, 0, 0, 1, 0, 0, 0, 1, 0, 0. -/
theorem test_controller_bits :
    let s := memWrite 0x4016#16 0x00#8 { plain with ctrlIn := plain.ctrlIn.set 0 0x91#8 }
    (List.range 10).map (fun k => busByte 0x4016#16 (readTimes 0x4016#16 k s)) =
      [1#8, 0#8, 0#8, 1#8, 0#8, 0#8, 0#8, 1#8, 0#8, 0#8] := by decide
/-- T4: the OAM port wraps its address. -/
theorem test_oam_port :
    let s := memWrite 0x2004#16 0x33#8 (memWrite 0x2004#16 0x22#8 (memWrite 0x2004#16 0x11#8 (memWrite 0x2003#16 0xFE#8 plain)))
    s.ppu.oam = [(0x00, 0x33#8), (0xFE, 0x11#8), (0xFF, 0x22#8)] ∧ s.ppu.oamAddr = 0x01#8 := by decide
/-- Table M: the vertical wrap corner cases. -/
theorem test_vertical_wraps :
    nextFineY 0x73A0#15 = 0x0800#15 ∧ nextFineY 0x73E0#15 = 0x0000#15 ∧ nextFineY 0x7BC0#15 = 0x0BE0#15 := by decide
/-- Part 2, below N5: sprite row addresses. -/
theorem test_sprite_row_addresses :
    let u := { Ppu.reset with ctrl := 0x20#8, scanline := 22 }
    u.spriteRowAddr ⟨20#8, 0x03#8, 0x00#8, 0#8⟩ = 0x1022#16 ∧ u.spriteRowAddr ⟨20#8, 0x03#8, 0x80#8, 0#8⟩ = 0x1035#16 ∧
    ({ u with ctrl := 0x08#8, scanline := 27 }).spriteRowAddr ⟨20#8, 0x03#8, 0x80#8, 0#8⟩ = 0x1030#16 := by decide

/-! ## Witnesses: concrete cases that meet the hypotheses of the statements, at the ends of their ranges -/

/-- `plain` with some registers of the PPU changed. -/
def withPpu (f : Ppu → Ppu) : State := { plain with ppu := f plain.ppu }

/-- A machine with no cartridge. -/
def bare : State := { plain with cart := none }

theorem witness_DecodeEncodeRoundTrip :
    Instr.wellFormed (.und 0x02#8) = true ∧ Instr.wellFormed (.und 0xFF#8) = true ∧
    Instr.wellFormed (.adcIndY 0xFF#8) = true ∧ Instr.wellFormed (.jmpInd 0xFFFF#16) = true := by decide
theorem witness_DecodedBytesAreTheEncoding :
    decode [0xA9#8, 0x65#8, 0x00#8] = .ok (.ldaImm 0x65#8) [0x00#8] ∧ decode [0xFF#8] = .ok (.und 0xFF#8) [] := by decide
theorem witness_EveryOpcodeByteDecodes :
    undefinedOpcodes.contains 0x02#8 = true ∧ undefinedOpcodes.contains 0xFF#8 = true ∧
    undefinedOpcodes.contains 0x00#8 = false := by decide
theorem witness_RamMirrorReadAfterWrite :
    (0x1FFF#16).toNat ≤ 0x1FFF ∧ sameRamByte 0x1FFF#16 0x07FF#16 ∧ sameRamByte 0x0000#16 0x1800#16 ∧
    ¬sameRamByte 0x1FFF#16 0x2000#16 ∧ ¬sameRamByte 0x0000#16 0x0001#16 := by decide
theorem witness_PpuRegisterMirror :
    0x2000 ≤ (0x2000#16).toNat ∧ (0x2000#16).toNat ≤ 0x3FFF ∧ 0x2000 ≤ (0x3FF8#16).toNat ∧ (0x3FF8#16).toNat ≤ 0x3FFF ∧
    (0x2000#16).toNat % 8 = (0x3FF8#16).toNat % 8 ∧ (0x2007#16).toNat % 8 = (0x3FFF#16).toNat % 8 := by decide
theorem witness_UnclaimedAccessesAreLogged :
    unclaimedAddr plain 0x4000#16 ∧ unclaimedAddr plain 0x4013#16 ∧ unclaimedAddr plain 0x4015#16 ∧
    unclaimedAddr plain 0x4018#16 ∧ unclaimedAddr plain 0x7FFF#16 ∧ unclaimedAddr bare 0x8000#16 ∧
    unclaimedAddr bare 0xFFFF#16 := by
  refine ⟨.inl ?_, .inl ?_, .inr (.inl ?_), .inr (.inr (.inl ?_)), .inr (.inr (.inl ?_)), .inr (.inr (.inr ?_)),
    .inr (.inr (.inr ?_))⟩ <;> decide
theorem witness_BusReadSideEffects :
    readSideEffect 0x1FFF#16 = false ∧ readSideEffect 0x2000#16 = false ∧ readSideEffect 0x3FFE#16 = false ∧
    readSideEffect 0x4014#16 = false ∧ readSideEffect 0xFFFF#16 = false ∧
    (0x2002#16).toNat % 8 = 2 ∧ (0x3FFA#16).toNat % 8 = 2 ∧ (0x3FFA#16).toNat ≤ 0x3FFF ∧
    (0x2007#16).toNat % 8 = 7 ∧ (0x3FFF#16).toNat % 8 = 7 ∧ 0x2000 ≤ (0x2002#16).toNat := by decide
theorem witness_CartridgeWindow :
    plain.cart = some cart ∧ 0x8000 ≤ (0x8000#16).toNat ∧ cart.prgBanks = 1#8 ∧ (0x8000#16).toNat < 0xC000 ∧
    (0xBFFF#16).toNat < 0xC000 ∧ 0x8000 ≤ (0xFFFF#16).toNat := by decide
theorem witness_InsertCartridgeEffect :
    cart.legal = true ∧ cart.wf = true ∧ { cart with mapperId := 1#8 }.legal = false ∧
    { cart with prgBanks := 2#8, prgLen := 32768, chrBanks := 0#8 }.legal = true ∧
    { cart with prgBanks := 3#8 }.legal = false := by decide
/-- With no cartridge (PC 0x0000, two reads logged) and with one. -/
theorem witness_ResetValues : bare.cart = none ∧ plain.cart ≠ none := by decide
theorem witness_ControllerShiftsOutButtons : (1 : Fin 2) ≠ 0 ∧ 7 < 8 ∧ ¬8 < 8 := by decide
theorem witness_NametableMirroring :
    0x2000 ≤ (0x2000#16).toNat ∧ (0x2000#16).toNat ≤ 0x3EFF ∧ 0x2000 ≤ (0x3EFF#16).toNat ∧ (0x3EFF#16).toNat ≤ 0x3EFF ∧
    physicalTable .horizontal 0x2000 = physicalTable .horizontal 0x2400 ∧
    physicalTable .horizontal 0x2000 ≠ physicalTable .horizontal 0x2800 := by decide
/-- R101: the first and last bytes of a table, and the fold of 0x3000 to 0x3EFF onto 0x2000 to 0x2EFF. -/
theorem test_physicalTable_offsets :
    physicalTable .vertical 0x23FF = 0 ∧ physicalTable .vertical 0x2400 = 1 ∧ physicalTable .horizontal 0x27FF = 0 ∧
    physicalTable .horizontal 0x2BFF = 1 ∧ physicalTable .vertical 0x3000 = 0 ∧ physicalTable .vertical 0x3400 = 1 ∧
    physicalTable .horizontal 0x3EFF = 1 := by decide
theorem witness_PaletteMirroring :
    0x3F00 ≤ (0x3F00#16).toNat ∧ (0x3F00#16).toNat ≤ 0x3FFF ∧ 0x3F00 ≤ (0x3FFF#16).toNat ∧ (0x3FFF#16).toNat ≤ 0x3FFF := by
  decide
theorem witness_ScrollAndAddressPorts : plain.ppu.w = false := by decide
theorem witness_DataStatusAndOamPorts :
    (withPpu fun u => { u with v := 0x3EFF#15 }).ppu.v.toNat % 0x4000 < 0x3F00 ∧
    0x3F00 ≤ (withPpu fun u => { u with v := 0x3F00#15 }).ppu.v.toNat % 0x4000 ∧
    0x3F00 ≤ (withPpu fun u => { u with v := 0x7FFF#15 }).ppu.v.toNat % 0x4000 := by decide
/-- The data-port write below the palette: at the last pattern address with CHR-RAM, and at the first nametable address. -/
theorem witness_DataStatusAndOamPorts_write :
    (0x1FFF#15 : LoopyReg).toNat % 0x4000 < 0x2000 ∧ ({ cart with chrBanks := 0#8 } : Cartridge).chrBanks = 0#8 ∧
    (0x2000#15 : LoopyReg).toNat % 0x4000 < 0x3F00 ∧ ¬(0x2000#15 : LoopyReg).toNat % 0x4000 < 0x2000 := by decide
theorem witness_LoopyFieldWrites : LoopyField.coarseY ≠ LoopyField.coarseX := by decide
theorem witness_LoadInstructions :
    loadForm (.ldaImm 0x00#8) = some (.a, .imm 0x00#8, 2) ∧ loadForm (.ldyAbsX 0xFFFF#16) = some (.y, .absX 0xFFFF#16, 4) ∧
    readSideEffect (resolve (.zp 0x10#8) plain).ea = false := by decide
theorem witness_StoreInstructions :
    storeForm (.staAbs 0x0000#16) = some (.a, .abs 0x0000#16, 4) ∧ storeForm (.styAbs 0x1FFF#16) = some (.y, .abs 0x1FFF#16, 4) ∧
    (resolve (.abs 0x1FFF#16) plain).ea.toNat ≤ 0x1FFF ∧ deviceAddr (resolve (.abs 0x1FFF#16) plain).ea = false ∧
    deviceAddr 0x8000#16 = false ∧ ¬sameRamByte 0x1FFF#16 0x8000#16 := by decide
theorem witness_TransferInstructions : transferForm .tax = some (.a, .x) ∧ transferForm .tsx = some (.sp, .x) := by decide
theorem witness_IndexStepInstructions :
    indexStepForm .inx = some (.x, 1#8) ∧ indexStepForm .dey = some (.y, 0xFF#8) := by decide
theorem witness_ModifyMemoryInstructions :
    modifyForm (.incZp 0x00#8) = some (.inc, .zp 0x00#8, 5) ∧ modifyForm (.rorAbsX 0x1FFF#16) = some (.ror, .absX 0x1FFF#16, 7) ∧
    (resolve (.absX 0x1FFF#16) plain).ea.toNat ≤ 0x1FFF := by decide
theorem witness_AccumulatorShifts : accumulatorForm .aslAcc = some .asl ∧ accumulatorForm .rorAcc = some .ror := by decide
theorem witness_LogicInstructions :
    logicForm (.andImm 0x0F#8) = some (.and, .imm 0x0F#8, 2) ∧ logicForm (.eorIndY 0x10#8) = some (.eor, .indY 0x10#8, 5) := by
  decide
theorem witness_BitInstructions :
    bitForm (.bitZp 0x10#8) = some (.zp 0x10#8, 3) ∧ bitForm (.bitAbs 0x2002#16) = some (.abs 0x2002#16, 4) := by decide
theorem witness_CompareInstructions :
    compareForm (.cmpImm 0x40#8) = some (.a, .imm 0x40#8, 2) ∧ compareForm (.cpyAbs 0x0300#16) = some (.y, .abs 0x0300#16, 4) := by
  decide
theorem witness_AddSubtractInstructions :
    addForm (.adcImm 0xFF#8) = some (false, .imm 0xFF#8, 2) ∧ addForm (.sbcIndY 0x10#8) = some (true, .indY 0x10#8, 5) := by
  decide
theorem witness_BranchInstructions :
    branchForm (.bne 0x05#8) = some (.z, false, 0x05#8) ∧ getFlag .z plain.cpu.p = false ∧
    branchForm (.bvs 0x80#8) = some (.v, true, 0x80#8) ∧ getFlag .v plain.cpu.p ≠ true := by decide
theorem witness_PushInstructions :
    (Instr.pha = .pha ∨ Instr.pha = .php) ∧ (deviceAddr (stackAddr 0x00#8) = false) ∧
    ¬sameRamByte (stackAddr 0x00#8) 0x0000#16 := by decide
theorem witness_PullInstructions : (Instr.plp = .pla ∨ Instr.plp = .plp) ∧ Instr.plp ≠ .pla := by decide
theorem witness_JumpInstructions :
    readSideEffect 0x02FF#16 = false ∧ readSideEffect 0x0200#16 = false ∧ deviceAddr 0xFFFF#16 = false := by decide
theorem witness_SubroutineInstructions :
    ¬sameRamByte (stackAddr plain.cpu.sp) 0x0000#16 ∧ ¬sameRamByte (stackAddr (plain.cpu.sp - 1#8)) 0x0000#16 := by decide
theorem witness_BrkInstruction :
    ¬sameRamByte (stackAddr 0x01#8) 0x01FE#16 ∧ ¬sameRamByte (stackAddr (0x01#8 - 1#8)) 0x01FE#16 ∧
    ¬sameRamByte (stackAddr (0x01#8 - 2#8)) 0x01FE#16 := by decide
theorem witness_FlagInstructionsAndNop : flagForm .clc = some (.c, false) ∧ flagForm .clv = some (.v, false) := by decide
theorem witness_InterruptEntry :
    getFlag .i plain.cpu.p = true ∧ getFlag .i { plain with cpu := { plain.cpu with p := 0x20#8 } }.cpu.p = false := by decide
theorem witness_InterruptReturnRoundTrip :
    plain.cpu.p &&& 0x30#8 = 0x20#8 ∧ 0xEF#8 &&& 0x30#8 = 0x20#8 ∧
    (let s := plain.setP 0x20#8
     s.cpu.p &&& 0x30#8 = 0x20#8 ∧ getFlag .i s.cpu.p = false) := by decide
theorem witness_NmiDelivery :
    let s := withPpu fun u => { u with scanline := 241, dot := 1, ctrl := 0x80#8 }
    s.nmiPending = false ∧ s.ppu.scanline = 241 ∧ s.ppu.dot = 1 ∧ s.ppu.ctrl.getLsbD 7 = true ∧
    ¬(plain.ppu.scanline = 241 ∧ plain.ppu.dot = 1 ∧ plain.ppu.ctrl.getLsbD 7 = true) := by decide
theorem witness_OnlyListedWriters :
    plain.cpu.p &&& 0x30#8 = 0x20#8 ∧ (∃ t, exec .sec plain = .next t ∧ getFlag .c t.cpu.p ≠ getFlag .c plain.cpu.p) ∧
    ∃ t, exec (.ldaImm 0x01#8) plain = .next t ∧ t.cpu.reg .a ≠ plain.cpu.reg .a :=
  ⟨by decide, ⟨_, rfl, by decide⟩, _, rfl, by decide⟩
theorem witness_CycleCosts :
    (∃ t, exec .nop plain = .next t ∧ t.cpu.debt = plain.cpu.debt + 1) ∧
    ∃ t, exec .brk plain = .next t ∧ t.cpu.debt = plain.cpu.debt + 6 :=
  ⟨⟨_, rfl, by decide⟩, _, rfl, by decide⟩
theorem witness_CartridgeImmutable :
    (∃ t, step plain = .next t) ∧ plain.cart = some cart ∧ cart.chrBanks ≠ 0#8 ∧ (∃ t, step bare = .next t) ∧
    bare.cart = none :=
  ⟨⟨_, rfl⟩, by decide, by decide, ⟨_, rfl⟩, by decide⟩

/-- LDA #$65 in RAM at PC, in a CPU slot. -/
def readyLda : State := { plain with ram := [(0x0200, 0xA9#8), (0x0201, 0x65#8)] }

theorem witness_StepRunsDecodedInstruction :
    readyLda.master % 3 = 0 ∧ readyLda.dma.state = .idle ∧ readyLda.cpu.debt = 0 ∧
    decode (fetchBytes 2 (countCycle (ppuClock Params.default readyLda))).1 = .ok (.ldaImm 0x65#8) [] := by decide
theorem witness_StepRunsDecodedInstruction_code :
    codeAddr 0x1FFF#16 plain ∧ codeAddr 0x8000#16 plain ∧ codeAddr 0xFFFF#16 plain ∧
    ∀ k, k < 3 → codeAddr (plain.cpu.pc + BitVec.ofNat 16 k) plain := by
  refine ⟨.inl (by decide), .inr (by decide), .inr (by decide), fun k hk => .inl ?_⟩
  interval_cases k <;> decide
theorem witness_TickAdvances :
    (∃ t, step plain = .next t) ∧ plain.ppu.dot ≠ 340 ∧ (withPpu fun u => { u with dot := 340 }).ppu.dot = 340 ∧
    (withPpu fun u => { u with dot := 340, scanline := 260 }).ppu.scanline = 260 :=
  ⟨⟨_, rfl⟩, by decide, by decide, by decide⟩
theorem witness_CpuWaits :
    plain.nmiPending = false ∧ ¬(plain.ppu.scanline = 241 ∧ plain.ppu.dot = 1) ∧ { plain with master := 1 }.master % 3 ≠ 0 ∧
    { plain with master := 2 }.master % 3 ≠ 0 ∧ (dmaArm 0x02#8 plain).dma.state ≠ .idle ∧ plain.master % 3 = 0 ∧
    plain.dma.state = .idle ∧ State.reset.cpu.debt ≠ 0 := by decide

/-- A transfer from page 0x02, armed, its first stolen slot odd or even. -/
def armed (master : Nat) : State := { dmaArm 0x02#8 plain with master := master }

theorem witness_DmaTransfer :
    (armed 3).dma.state = .sync ∧ (armed 3).master / 3 % 2 = 1 ∧ (armed 6).dma.state = .sync ∧ (armed 6).master / 3 % 2 = 0 ∧
    (armed 6).dma.cursor = 0x00#8 ∧ (dmaStep (armed 3)).dma.state = .read ∧ (dmaStep (armed 3)).dma.cursor = 0x00#8 ∧
    codeAddr (addrOf 0x00#8 (armed 6).dma.page) (armed 6) ∧ codeAddr (addrOf 0x00#8 0x1F#8) plain ∧
    codeAddr (addrOf 0x00#8 0x80#8) plain ∧ codeAddr (addrOf 0x00#8 0xFF#8) plain :=
  ⟨by decide, by decide, by decide, by decide, by decide, by decide, by decide, .inl (by decide), .inl (by decide),
    .inr (by decide), .inr (by decide)⟩
theorem witness_FrameTiming :
    Ppu.reset.scanline = -1 ∧ Ppu.reset.dot = 0 ∧ { Ppu.reset with dot := 340 }.dot = 340 ∧
    { Ppu.reset with dot := 339 }.dot ≠ 340 := by decide
theorem witness_ScrollIncrements :
    Ppu.reset.rendering = false ∧ { Ppu.reset with mask := 0x08#8 }.rendering = true ∧
    { Ppu.reset with mask := 0x10#8 }.rendering = true := by decide
theorem witness_StatusFlagEvents :
    (let u := { Ppu.reset with dot := 1 }
     u.scanline = -1 ∧ u.dot = 1) ∧
    (let u := { Ppu.reset with scanline := 241, dot := 1 }
     u.scanline = 241 ∧ u.dot = 1 ∧ ¬(u.scanline = -1 ∧ u.dot = 1)) ∧
    (let u := { Ppu.reset with scanline := 0, dot := 257 }
     ¬(u.scanline = -1 ∧ u.dot = 1) ∧ (u.clock none).spriteOverflow ≠ u.spriteOverflow) := by decide

/-- Nine sprites in range on scanline 50, of which sprite 0 is the first; S7 has them at 3 to 11. -/
def nineSprites : Ppu :=
  { Ppu.reset with
    scanline := 50
    dot := 257
    oam := (List.range 9).map fun n => (4 * n, 50#8) }

theorem witness_SpriteEvaluation :
    ((List.range 64).filter nineSprites.spriteInRange).length = 9 ∧
    ((List.range 64).filter { nineSprites with scanline := 58 }.spriteInRange).length ≤ 8 := by decide
theorem witness_SpriteZeroHit :
    let u :=
      { Ppu.reset with
        scanline := 50, dot := 10, mask := 0x18#8, bgLo := 0xFFFF#16, spriteCount := 1, zeroPossible := true
        sprLo := Vector.replicate 8 0xFF#8 }
    ¬(u.scanline = -1 ∧ u.dot = 1) ∧ (u.clock none).spriteZeroHit ≠ u.spriteZeroHit := by decide
/-- R40, R352: every pixel holds a colour; a plotted one the colour plotted, its neighbours in the row and across the row's
end as before. -/
theorem test_plot :
    let fb := FrameBuffer.plot (FrameBuffer.plot [] 0 255 0x00112233#32) 1 0 0xFF0000FF#32
    FrameBuffer.pixel fb 0 255 = 0x00112233#32 ∧ FrameBuffer.pixel fb 1 0 = 0xFF0000FF#32 ∧
    FrameBuffer.pixel fb 1 1 = unlistedColour ∧ fb.wf = true := by decide
/-- Plotting the colour an unlisted pixel holds unlists the pixel. -/
theorem test_plot_unlisted : FrameBuffer.plot (FrameBuffer.plot [] 7 9 0x00112233#32) 7 9 unlistedColour = [] := by decide
theorem witness_FrameBufferWrites :
    { Ppu.reset with scanline := 0, dot := 1 }.scanline = ((0 : Nat) : Int) ∧
    { Ppu.reset with scanline := 239 }.scanline = ((239 : Nat) : Int) ∧
    { Ppu.reset with dot := 256 }.dot = 255 + 1 ∧ Ppu.reset.mask.getLsbD 3 = false ∧ Ppu.reset.mask.getLsbD 4 = false ∧
    ¬(Ppu.reset.scanline = ((0 : Nat) : Int) ∧ Ppu.reset.dot = 0 + 1) := by decide
theorem witness_PriorityAndReversal : (1#2 : BitVec 2) ≠ 0#2 ∧ 7 < 8 := by decide

/-- A state other than the reset state, with a cartridge, has the invariant. -/
theorem witness_Inv : plain.Inv where
  status := by decide
  ppu := ⟨by decide, by decide, by decide, by decide, by decide, by decide, by decide, by decide⟩
  ram := by decide
  cart := by
    intro c hc
    cases hc
    decide
  dmaRead := by decide
  dmaWrite := by decide
theorem witness_InvariantStep : plain.Inv ∧ ∃ t, step plain = .next t := ⟨witness_Inv, _, rfl⟩
theorem witness_InvariantHostActions :
    Params.default.resetP &&& 0x30#8 = 0x20#8 ∧ plain.Inv ∧ (∃ t, hostAct Params.default .irq plain = .next t) ∧
    (∃ t, hostAct Params.default (.insertCartridge cart) plain = .next t) ∧ ∃ t, hostAct Params.default .reset plain = .next t :=
  ⟨by decide, witness_Inv, ⟨_, rfl⟩, ⟨_, rfl⟩, _, rfl⟩

end Sys2Proof.Tests
end

section
/-! The invariant under every host action (00_scope.md R7): the PPU clock keeps the PPU's part of it, bus accesses keep the
memories, and each part of a tick keeps the alignment of the DMA controller with the parity of the CPU slots (R382). -/

namespace Sys2Proof.Machine

/-! ## The sprite count and the counters under a PPU clock -/

section

variable (cart : Option Cartridge) (u : Ppu)

theorem lineA_spriteCount : u.lineA.spriteCount = u.spriteCount := by
  unfold Ppu.lineA
  split <;> rfl

theorem shiftBackground_spriteCount : u.shiftBackground.spriteCount = u.spriteCount := by
  unfold Ppu.shiftBackground
  split <;> rfl

theorem shiftSprites_spriteCount : u.shiftSprites.spriteCount = u.spriteCount := by
  unfold Ppu.shiftSprites
  split <;> rfl

theorem incrementX_spriteCount : u.incrementX.spriteCount = u.spriteCount := by
  unfold Ppu.incrementX
  split <;> rfl

theorem tilePhase_spriteCount : (u.tilePhase cart).spriteCount = u.spriteCount := by
  unfold Ppu.tilePhase
  split
  case h_5 => exact incrementX_spriteCount u
  all_goals rfl

theorem lineB_spriteCount : (u.lineB cart).spriteCount = u.spriteCount := by
  unfold Ppu.lineB
  split
  · rw [tilePhase_spriteCount, shiftSprites_spriteCount, shiftBackground_spriteCount]
  · rfl

theorem lineC_spriteCount : u.lineC.spriteCount = u.spriteCount := by
  unfold Ppu.lineC Ppu.incrementY
  split
  · split <;> rfl
  · rfl

theorem lineD_spriteCount : u.lineD.spriteCount = u.spriteCount := by
  unfold Ppu.lineD Ppu.copyX
  split
  · split <;> rfl
  · rfl

theorem lineE_spriteCount : u.lineE.spriteCount = u.spriteCount := by
  unfold Ppu.lineE Ppu.copyY
  split
  · split <;> rfl
  · rfl

/-- Only line f, the sprite evaluation, sets the sprite count (51_ppu_rendering.md R340). -/
theorem lineF_spriteCount :
    u.lineF.spriteCount = if u.visible && decide (u.dot = 257) then min u.spriteMatches.length 8 else u.spriteCount := by
  unfold Ppu.lineF
  split <;> rfl

theorem lineG_spriteCount : (u.lineG cart).spriteCount = u.spriteCount := by
  unfold Ppu.lineG
  split <;> rfl

theorem lineH_spriteCount : u.lineH.spriteCount = u.spriteCount := by
  unfold Ppu.lineH
  split <;> rfl

theorem compose_spriteCount : (u.compose cart).spriteCount = u.spriteCount := by
  rw [compose_frame]

theorem advance_spriteCount : u.advance.spriteCount = u.spriteCount := by
  rw [advance_frame]

variable {u}

theorem lineF_spriteCount_le (h : u.spriteCount ≤ 8) : u.lineF.spriteCount ≤ 8 := by
  rw [lineF_spriteCount]
  split
  · exact Nat.min_le_right _ _
  · exact h

/-- A PPU clock leaves at most eight sprites counted (10_state.md R33). -/
theorem clock_spriteCount_le (h : u.spriteCount ≤ 8) : (u.clock cart).spriteCount ≤ 8 := by
  rw [Ppu.clock, advance_spriteCount, compose_spriteCount, Ppu.dotWork, lineH_spriteCount, lineG_spriteCount]
  apply lineF_spriteCount_le
  rwa [lineE_spriteCount, lineD_spriteCount, lineC_spriteCount, lineB_spriteCount, lineA_spriteCount]

/-- The advance of the counters stays on the timing grid (10_state.md R37). -/
theorem advance_onGrid (hs : -1 ≤ u.scanline ∧ u.scanline ≤ 260) (hd : u.dot ≤ 340) :
    (-1 ≤ u.advance.scanline ∧ u.advance.scanline ≤ 260) ∧ u.advance.dot ≤ 340 := by
  unfold Ppu.advance
  split
  · split <;> dsimp only <;> omega
  · dsimp only
    omega

/-- Composition plots only inside the frame: scanlines 0 to 239, dots 1 to 256 (51_ppu_rendering.md R346). -/
theorem compose_fb_wf (h : FrameBuffer.wf u.fb = true) : FrameBuffer.wf (u.compose cart).fb = true := by
  unfold Ppu.compose
  split
  next hc =>
    simp only [Ppu.composing, Ppu.visible, Bool.and_eq_true, decide_eq_true_eq] at hc
    exact FrameBuffer.wf_plot h (by omega) (by omega)
  next => exact h

theorem clock_fb_wf (h : FrameBuffer.wf u.fb = true) : FrameBuffer.wf (u.clock cart).fb = true := by
  rw [Ppu.clock, advance_frame]
  exact compose_fb_wf cart (by rwa [dotFrame_fb (dotWork_frame cart u)])

/-- A PPU clock keeps the PPU's part of the invariant. -/
theorem Ppu.Inv.clock (h : u.Inv) : (u.clock cart).Inv := by
  obtain ⟨hs, hd, -⟩ := clock_counters cart u
  obtain ⟨hscan, hdot⟩ := advance_onGrid h.scanline h.dot
  have hfb := clock_fb_wf cart h.fb
  have hcount := clock_spriteCount_le cart h.spriteCount
  rw [← hs] at hscan
  rw [← hd] at hdot
  rw [clock_frame]
  exact ⟨h.oam, h.nt, h.pal, h.pat, hfb, hscan, hdot, hcount⟩

/-- A PPU reset keeps the memories and the frame buffer, and puts the counters back at their start (70_reset_and_hazards.md
R442, R443). -/
theorem Ppu.Inv.reset (h : u.Inv) : (ppuReset u).Inv := by
  have hscan : -1 ≤ Ppu.reset.scanline ∧ Ppu.reset.scanline ≤ 260 := by decide
  exact ⟨h.oam, h.nt, h.pal, h.pat, h.fb, hscan, Nat.zero_le _, Nat.zero_le _⟩

end

/-! ## The invariant relative to the parity of a slot -/

/-- The invariant with the parity of the next CPU slot as a parameter, so that it can be followed through the middle of a
tick, where the master counter has not been advanced yet. -/
structure InvAt (odd : Bool) (s : State) : Prop where
  status : StatusPolicy s.cpu.p
  mem : MemInv s
  dmaRead : s.dma.state = .read → odd = false
  dmaWrite : s.dma.state = .write → odd = true

theorem State.inv_iff_invAt (s : State) : s.Inv ↔ InvAt s.nextSlotOdd s :=
  ⟨fun h => ⟨h.status, h.memInv, h.dmaRead, h.dmaWrite⟩,
    fun h => ⟨h.status, h.mem.ppu, h.mem.ram, h.mem.cart, h.dmaRead, h.dmaWrite⟩⟩

/-- With the controller idle or just armed, nothing is asked of the parity. -/
theorem InvAt.of_notTransferring {s : State} (odd : Bool) (hp : StatusPolicy s.cpu.p) (hm : MemInv s)
    (hd : s.dma.state = .idle ∨ s.dma.state = .sync) : InvAt odd s := by
  refine ⟨hp, hm, fun h => ?_, fun h => ?_⟩ <;> rw [h] at hd <;> simp at hd

/-- At a given parity the invariant says nothing of the NMI signal or of the master counter. -/
theorem InvAt.setSignals {odd : Bool} {s : State} (h : InvAt odd s) (pending armed : Bool) (master : Nat) :
    InvAt odd { s with nmiPending := pending, nmiArmed := armed, master := master } :=
  ⟨h.status, ⟨h.mem.ppu, h.mem.ram, h.mem.cart⟩, h.dmaRead, h.dmaWrite⟩

/-- Bus accesses and register changes that keep the status policy keep the invariant, at any parity. -/
theorem Accesses.invAt {odd : Bool} {s t : State} (h : Accesses s t) (hp : StatusPolicy t.cpu.p) (hs : InvAt odd s) :
    InvAt odd t := by
  have hm := h.memInv hs.mem
  rcases h.dmaState with hd | hd
  · exact ⟨hp, hm, fun e => hs.dmaRead (hd ▸ e), fun e => hs.dmaWrite (hd ▸ e)⟩
  · exact .of_notTransferring odd hp hm (.inr hd)

theorem State.nextSlotOdd_iff (s : State) : s.nextSlotOdd = true ↔ (s.master + 2) / 3 % 2 = 1 := by
  simp [State.nextSlotOdd]

theorem State.nextSlotOdd_congr {s t : State} (h : t.master = s.master) : t.nextSlotOdd = s.nextSlotOdd := by
  rw [State.nextSlotOdd, State.nextSlotOdd, h]

/-! ## Interrupt entry -/

theorem cpuNmi_invAt {odd : Bool} {s : State} (h : InvAt odd s) : InvAt odd (cpuNmi s) :=
  (Accesses.cpuNmi .refl).invAt (interrupt_status (by decide) (by decide) h.status) h

theorem cpuIrq_status {s : State} (h : StatusPolicy s.cpu.p) : StatusPolicy (cpuIrq s).cpu.p := by
  unfold cpuIrq
  split
  · exact h
  · exact interrupt_status (by decide) (by decide) h

/-- `CPU.IRQ()` keeps the invariant. -/
theorem cpuIrq_inv {s : State} (h : s.Inv) : (cpuIrq s).Inv := by
  have ha : Accesses s (cpuIrq s) := Accesses.cpuIrq .refl
  rw [State.inv_iff_invAt, State.nextSlotOdd_congr ha.busFrame.master]
  exact ha.invAt (cpuIrq_status h.status) ((State.inv_iff_invAt s).1 h)

/-! ## The parts of a tick (55_system_clock_dma.md R371) -/

theorem countTick_master (s : State) : (countTick s).master = s.master + 1 := rfl

theorem countTick_nextSlotOdd_of_slot {s : State} (h : s.master % 3 = 0) :
    (countTick s).nextSlotOdd = !s.nextSlotOdd := by
  rw [Bool.eq_iff_iff, Bool.not_eq_true', ← Bool.not_eq_true, State.nextSlotOdd_iff, State.nextSlotOdd_iff,
    countTick_master]
  omega

theorem countTick_nextSlotOdd_of_notSlot {s : State} (h : ¬s.master % 3 = 0) :
    (countTick s).nextSlotOdd = s.nextSlotOdd := by
  rw [Bool.eq_iff_iff, State.nextSlotOdd_iff, State.nextSlotOdd_iff, countTick_master]
  omega

/-- In a CPU slot the next slot is the current one. -/
theorem nextSlotOdd_eq_oddSlot {s : State} (h : s.master % 3 = 0) : s.nextSlotOdd = s.oddSlot := by
  simp only [State.nextSlotOdd, State.oddSlot, decide_eq_decide]
  omega

theorem ppuClock_invAt (p : Params) {odd : Bool} {s : State} (h : InvAt odd s) : InvAt odd (ppuClock p s) := by
  rw [ppuClock_frame]
  exact ⟨h.status, ⟨h.mem.ppu.clock s.cart, h.mem.ram, h.mem.cart⟩, h.dmaRead, h.dmaWrite⟩

theorem ppuClock_master (p : Params) (s : State) : (ppuClock p s).master = s.master := by
  rw [ppuClock_frame]

/-- A CPU clock is register changes and bus accesses. -/
theorem cpuClock_accesses {s t : State} (h : cpuClock s = .next t) : Accesses s t := by
  unfold cpuClock at h
  dsimp only at h
  split at h
  · have hcount : Accesses s (countCycle s) := .cpu _ .refl
    exact hcount.trans ((fetchInstr_accesses _).trans (exec_accesses h))
  · cases h
    exact .of_sameOutsideCpu rfl

theorem cpuClock_status {s t : State} (h : cpuClock s = .next t) (hs : StatusPolicy s.cpu.p) : StatusPolicy t.cpu.p := by
  unfold cpuClock at h
  dsimp only at h
  split at h
  · exact exec_status h (by rwa [fetchInstr_p])
  · cases h
    exact hs

theorem dmaRead_memInv {s : State} (h : MemInv s) : MemInv (dmaRead s) := by
  obtain ⟨hp, hr, hc⟩ := memRead_memInv h (addrOf s.dma.cursor s.dma.page)
  exact ⟨hp, hr, hc⟩

theorem dmaWrite_memInv {s : State} (h : MemInv s) : MemInv (dmaWrite s) := by
  obtain ⟨hp, hr, hc⟩ := h
  exact ⟨{ hp with oam := Memory.wf_write hp.oam s.dma.cursor.isLt }, hr, hc⟩

/-- A DMA read happens in an even slot and leaves the write to the odd one after it. -/
theorem dmaRead_invAt {s : State} (h : InvAt false s) : InvAt true (dmaRead s) :=
  ⟨by simpa using h.status, dmaRead_memInv h.mem, nofun, fun _ => rfl⟩

/-- A DMA write happens in an odd slot; after it the transfer ends, or goes on with a read in the even slot after it. -/
theorem dmaWrite_invAt {s : State} (h : InvAt true s) : InvAt false (dmaWrite s) := by
  refine ⟨h.status, dmaWrite_memInv h.mem, fun _ => rfl, fun e => ?_⟩
  simp only [dmaWrite] at e
  split at e <;> cases e

/-- The DMA controller steps from the parity of its slot to the other one (R382). -/
theorem dmaStep_invAt {s : State} (h : InvAt s.oddSlot s) (hd : s.dma.state ≠ .idle) :
    InvAt (!s.oddSlot) (dmaStep s) := by
  unfold dmaStep
  split
  case h_1 e => exact absurd e hd
  case h_2 =>
    split
    case isTrue ho =>
      rw [ho]
      exact ⟨h.status, ⟨h.mem.ppu, h.mem.ram, h.mem.cart⟩, fun _ => rfl, nofun⟩
    case isFalse ho =>
      rw [Bool.not_eq_true] at ho
      rw [ho] at h ⊢
      exact dmaRead_invAt h
  case h_3 e =>
    have ho := h.dmaRead e
    rw [ho] at h ⊢
    exact dmaRead_invAt h
  case h_4 e =>
    have ho := h.dmaWrite e
    rw [ho] at h ⊢
    exact dmaWrite_invAt h

/-- A CPU clock runs only with the DMA controller idle, so it can at most arm a transfer: any parity will do after it. -/
theorem cpuClock_invAt {odd odd' : Bool} {s t : State} (h : cpuClock s = .next t) (hs : InvAt odd s)
    (hd : s.dma.state = .idle) : InvAt odd' t :=
  (cpuClock_accesses h).invAt (cpuClock_status h hs.status) (.of_notTransferring odd' hs.status hs.mem (.inl hd))

/-- Step 2 of R371 leaves the invariant at the parity that the master counter shows after the tick. -/
theorem slotStep_invAt {s t : State} (h : slotStep s = .next t) (hs : InvAt s.nextSlotOdd s) :
    InvAt (countTick s).nextSlotOdd t := by
  unfold slotStep at h
  split at h
  next hslot =>
    split at h
    next hd =>
      cases h
      rw [countTick_nextSlotOdd_of_slot hslot]
      rw [nextSlotOdd_eq_oddSlot hslot] at hs ⊢
      exact dmaStep_invAt hs hd
    next hd => exact cpuClock_invAt h hs (not_not.1 hd)
  next hslot =>
    cases h
    rwa [countTick_nextSlotOdd_of_notSlot hslot]

theorem deliverNmi_invAt {odd : Bool} {s : State} (h : InvAt odd s) : InvAt odd (deliverNmi s) := by
  unfold deliverNmi
  split
  · exact cpuNmi_invAt (h.setSignals _ _ _)
  · exact h

theorem promoteNmi_invAt (p : Params) {odd : Bool} {s : State} (h : InvAt odd s) : InvAt odd (promoteNmi p s) := by
  unfold promoteNmi
  split
  · exact h.setSignals _ _ _
  · exact h

theorem deliverNmi_master (s : State) : (deliverNmi s).master = s.master := by
  unfold deliverNmi
  split
  · exact (Accesses.cpuNmi .refl).busFrame.master
  · rfl

theorem promoteNmi_master (p : Params) (s : State) : (promoteNmi p s).master = s.master := by
  unfold promoteNmi
  split <;> rfl

theorem endTick_nextSlotOdd (p : Params) (s : State) : (endTick p s).nextSlotOdd = (countTick s).nextSlotOdd := by
  refine State.nextSlotOdd_congr ?_
  rw [endTick, countTick_master, promoteNmi_master, deliverNmi_master, countTick_master]

/-- Steps 3 to 5 of R371 turn the invariant at the parity after the tick into the invariant. -/
theorem endTick_inv (p : Params) {s : State} (h : InvAt (countTick s).nextSlotOdd s) : (endTick p s).Inv := by
  rw [State.inv_iff_invAt, endTick_nextSlotOdd]
  exact (promoteNmi_invAt p (deliverNmi_invAt h)).setSignals _ _ _

/-- `System.Clock()` is the PPU clock, the CPU or DMA step, and the end of the tick, with every parameter setting (R371). -/
theorem systemClock_eq {p : Params} {s t : State} (h : systemClock p s = .next t) :
    ∃ u, slotStep (ppuClock p s) = .next u ∧ t = endTick p u := by
  obtain ⟨u, hu⟩ := slotStep_next (ppuClock p s)
  refine ⟨u, hu, ?_⟩
  rw [systemClock, hu] at h
  cases h
  rfl

/-- `System.Clock()` keeps the invariant, with every parameter setting. -/
theorem systemClock_inv {p : Params} {s t : State} (hs : s.Inv) (h : systemClock p s = .next t) : t.Inv := by
  obtain ⟨u, hu, rfl⟩ := systemClock_eq h
  have hclock : InvAt (ppuClock p s).nextSlotOdd (ppuClock p s) := by
    rw [State.nextSlotOdd_congr (ppuClock_master p s)]
    exact ppuClock_invAt p ((State.inv_iff_invAt s).1 hs)
  have hmaster : (countTick u).master = (countTick (ppuClock p s)).master := by
    rw [countTick_master, countTick_master, (slotStep_busFrame hu).master]
  refine endTick_inv p ?_
  rw [State.nextSlotOdd_congr hmaster]
  exact slotStep_invAt hu hclock

/-! ## Reset and the cartridge -/

/-- `System.Reset()` establishes the invariant from its memory part alone, when the reset status has Break 0 and Unused 1. -/
theorem systemReset_inv {p : Params} (hp : StatusPolicy p.resetP) {s : State} (h : MemInv s) : (systemReset p s).Inv := by
  obtain ⟨hppu, hram, hcart⟩ := (Accesses.read16 resetVector (.refl (s := s))).memInv h
  exact ⟨hp, hppu.reset, hram, hcart, nofun, nofun⟩

/-- Inserting a cartridge keeps the invariant: an illegal one changes nothing (20_memory.md R92). -/
theorem insertCartridge_inv {p : Params} (hp : StatusPolicy p.resetP) (c : Cartridge) {s : State} (h : s.Inv) :
    (insertCartridge p c s).Inv := by
  unfold insertCartridge
  split
  next hc =>
    rw [Bool.and_eq_true] at hc
    refine systemReset_inv hp ⟨h.ppu, h.ram, fun d hd => ?_⟩
    cases hd
    exact hc
  next => exact h

/-! ## The other host actions -/

theorem setButtons_inv (port : Fin 2) (v : Byte) {s : State} (h : s.Inv) : (setButtons port v s).Inv :=
  ⟨h.status, h.ppu, h.ram, h.cart, h.dmaRead, h.dmaWrite⟩

theorem ackFrame_inv {s : State} (h : s.Inv) : (ackFrame s).Inv := by
  obtain ⟨hoam, hnt, hpal, hpat, hfb, hscan, hdot, hcount⟩ := h.ppu
  exact ⟨h.status, ⟨hoam, hnt, hpal, hpat, hfb, hscan, hdot, hcount⟩, h.ram, h.cart, h.dmaRead, h.dmaWrite⟩

/-- Settles O60, by one lemma per host action. -/
theorem invariantHostActions : Obligations.InvariantHostActions := by
  intro p a s t hp hs h
  cases a with
  | clock => exact systemClock_inv hs h
  | reset =>
    cases h
    exact systemReset_inv hp hs.memInv
  | insertCartridge c =>
    cases h
    exact insertCartridge_inv hp c hs
  | setButtons port v =>
    cases h
    exact setButtons_inv port v hs
  | ackFrame =>
    cases h
    exact ackFrame_inv hs
  | irq =>
    cases h
    exact cpuIrq_inv hs

end Sys2Proof.Machine
end

section
/-! The state at reset and under steps (10_state.md R25, R60, R65): every value a reset leaves, the invariant at reset and
after a step, and the cartridge no step changes but for CHR-RAM. -/

namespace Sys2Proof.Machine

/-! ## The invariant (10_state.md R25, R33, R35, R37) -/

/-- Settles O59: a step is `System.Clock()` with the default parameters, and `System.Clock()` keeps the invariant with every
parameter setting. -/
theorem invariantStep : Obligations.InvariantStep := fun _ _ hs h => systemClock_inv hs h

/-- A machine with nothing written and no cartridge has every memory in canonical form. -/
theorem reset_memInv : MemInv State.reset where
  ppu := by constructor <;> decide
  ram := rfl
  cart := nofun

/-- Settles O58: the memories are empty, and the DMA controller is idle. -/
theorem invariantAtReset : Obligations.InvariantAtReset := by
  obtain ⟨hppu, hram, hcart⟩ := reset_memInv
  exact ⟨rfl, hppu, hram, hcart, nofun, nofun⟩

/-! ## The cartridge (20_memory.md R93, R94) -/

theorem deliverNmi_cartKept (s : State) : cartKept s.cart (deliverNmi s).cart := by
  unfold deliverNmi
  split
  · exact (Accesses.cpuNmi (.refl (s := { s with nmiPending := false }))).busFrame.cart
  · exact cartKept_refl _

/-- Settles O45: the PPU clock leaves the cartridge alone, and the rest of a step is bus accesses. -/
theorem cartridgeImmutable : Obligations.CartridgeImmutable := by
  intro s t h
  obtain ⟨u, hu, rfl⟩ := step_eq h
  have hslot : cartKept s.cart u.cart := by
    have hk := (slotStep_busFrame hu).cart
    rwa [ppuClock_frame] at hk
  exact cartKept_trans hslot (deliverNmi_cartKept u)

/-! ## Reset (70_reset_and_hazards.md R440 to R443) -/

theorem read16_effects (a : Addr) (s : State) : onlyReadEffects s (read16 a s).2 :=
  onlyReadEffects_trans (memRead_effects a s) (memRead_effects (a + 1#16) _)

/-- The word two bus reads give, when the first has no side effect. -/
theorem read16_value {a : Addr} (h : readSideEffect a = false) (s : State) : (read16 a s).1 = busWord a s := by
  have hhi : busByte (a + 1#16) (memRead a s).2 = busByte (a + 1#16) s := by
    refine busByte_congr_all _ ?_ ?_ ?_ ?_ <;> rw [memRead_quiet h]
  exact congrArg (addrOf (busByte a s)) hhi

/-- With no cartridge a word of the cartridge window reads 0x0000, and both reads are logged (R95). -/
theorem read16_noCart {a : Addr} (ha : 0x8000 ≤ a.toNat) (ha' : 0x8000 ≤ (a + 1#16).toNat) {s : State}
    (hc : s.cart = none) :
    read16 a s = (0x0000#16, (s.record (.outOfRange a false)).record (.outOfRange (a + 1#16) false)) := by
  simp only [read16, memRead_noCart ha hc, memRead_noCart ha' (s := s.record _) hc]
  rfl

/-- A reset gives the PPU its reset values, whatever it held, and leaves its memories (R442, R443). -/
theorem ppuReset_resetFrom (u : Ppu) : ppuResetFrom u (ppuReset u) := by
  have hslots (i : Fin 8) :
      (ppuReset u).secOam[i] = ⟨0xFF#8, 0xFF#8, 0xFF#8, 0xFF#8⟩ ∧ (ppuReset u).sprLo[i] = 0x00#8 ∧
        (ppuReset u).sprHi[i] = 0x00#8 ∧ (ppuReset u).sprX[i] = 0x00#8 := by
    simp [ppuReset, Ppu.reset]
  exact ⟨rfl, rfl, rfl, rfl, rfl, rfl, rfl, rfl, rfl, rfl, rfl, rfl, rfl, rfl, rfl, rfl, rfl, rfl, rfl, rfl, rfl, rfl, rfl,
    rfl, hslots, rfl, rfl, rfl, rfl, rfl⟩

/-- The reads of the reset vector reach no memory that a reset keeps, so outside the CPU and the log a reset acts as if it
made none (R440, R443). -/
theorem systemReset_outsideCpu (p : Params) (s : State) : outsideCpuResetFrom s (systemReset p s) := by
  have hread := read16_effects resetVector s
  have hppu : (systemReset p s).ppu = ppuReset s.ppu := by
    change ppuReset (read16 resetVector s).2.ppu = _
    rw [hread]
    rfl
  have hram : (read16 resetVector s).2.ram = s.ram := by rw [hread]
  have hctrlIn : (read16 resetVector s).2.ctrlIn = s.ctrlIn := by rw [hread]
  have hcart : (read16 resetVector s).2.cart = s.cart := by rw [hread]
  exact ⟨hppu ▸ ppuReset_resetFrom s.ppu, rfl, rfl, rfl, rfl, rfl, rfl, rfl, rfl, rfl, hram, hctrlIn, hcart⟩

theorem systemReset_pc (p : Params) (s : State) : (systemReset p s).cpu.pc = busWord 0xFFFC#16 s :=
  read16_value (by decide) s

/-- With no cartridge PC is 0x0000 and the two reads of the vector are logged (R95, R441). -/
theorem systemReset_noCart (p : Params) {s : State} (hc : s.cart = none) :
    (systemReset p s).cpu.pc = 0x0000#16 ∧
      (systemReset p s).log = .outOfRange 0xFFFD#16 false :: .outOfRange 0xFFFC#16 false :: s.log := by
  have hread := read16_noCart (a := resetVector) (by decide) (by decide) hc
  exact ⟨congrArg Prod.fst hread, congrArg (fun r => r.2.log) hread⟩

/-- With a cartridge the reads of the vector are claimed, and nothing is logged (R94, R441). -/
theorem systemReset_log {s : State} (p : Params) (hc : s.cart ≠ none) : (systemReset p s).log = s.log := by
  obtain ⟨c, hc⟩ := Option.ne_none_iff_exists'.1 hc
  rw [systemReset_eq p hc]

/-- Settles O51, from what a reset leaves in PC, outside the CPU, and in the log with and without a cartridge. -/
theorem resetValues : Obligations.ResetValues :=
  ⟨fun s => ⟨rfl, rfl, rfl, rfl, rfl, systemReset_pc _ s, rfl, rfl, systemReset_outsideCpu _ s, systemReset_noCart _,
    systemReset_log _⟩, rfl⟩

end Sys2Proof.Machine
end

section
/-! Returning from an interrupt handler (60_exceptions.md R410): RTI pulls what the entry pushed. -/

namespace Sys2Proof.Machine

/-- RTI loads into P the status that an interrupt pushed, when P keeps to R25. -/
theorem statusPulled_pushedByInterrupt {p : Byte} (h : StatusPolicy p) : statusPulled (statusPushedByInterrupt p) = p := by
  obtain ⟨hb, hu⟩ := (status_policy_iff p).1 h
  refine status_ext fun f => ?_
  rw [getFlag_statusPulled, getFlag_statusPushedByInterrupt]
  cases f <;> simp [hb, hu]

/-- The same of the status that BRK pushed: RTI ignores its Break 1. -/
theorem statusPulled_pushedByInstruction {p : Byte} (h : StatusPolicy p) :
    statusPulled (statusPushedByInstruction p) = p := by
  obtain ⟨hb, hu⟩ := (status_policy_iff p).1 h
  refine status_ext fun f => ?_
  rw [getFlag_statusPulled, getFlag_statusPushedByInstruction]
  cases f <;> simp [hb, hu]

/-- Reading back the three bytes of three pushes, from the last one up. -/
theorem pushedRam_reads (b0 b1 b2 : Byte) (s : State) :
    Memory.read (pushedRam b0 b1 b2 s) (256 + (s.cpu.sp - 2#8).toNat) = b2 ∧
    Memory.read (pushedRam b0 b1 b2 s) (256 + (s.cpu.sp - 1#8).toNat) = b1 ∧
    Memory.read (pushedRam b0 b1 b2 s) (256 + s.cpu.sp.toNat) = b0 := by
  have h01 : 256 + s.cpu.sp.toNat ≠ 256 + (s.cpu.sp - 1#8).toNat := by bv_omega
  have h02 : 256 + s.cpu.sp.toNat ≠ 256 + (s.cpu.sp - 2#8).toNat := by bv_omega
  have h12 : 256 + (s.cpu.sp - 1#8).toNat ≠ 256 + (s.cpu.sp - 2#8).toNat := by bv_omega
  refine ⟨?_, ?_, ?_⟩
  · rw [pushedRam, Memory.read_write_same]
  · rw [pushedRam, Memory.read_write_other _ _ h12, Memory.read_write_same]
  · rw [pushedRam, Memory.read_write_other _ _ h02, Memory.read_write_other _ _ h01, Memory.read_write_same]

/-- RTI from a handler that kept the stack: PC and SP are those at entry, P is the status pushed, and no other CPU register
changes. -/
theorem returnFromInterrupt_cpu {b : Byte} {s t : State}
    (hram : t.ram = pushedRam (hiByte s.cpu.pc) (loByte s.cpu.pc) b s) (hsp : t.cpu.sp = s.cpu.sp - 3#8) :
    (returnFromInterrupt t).cpu = { t.cpu with p := statusPulled b, pc := s.cpu.pc, sp := s.cpu.sp } := by
  obtain ⟨hb, hlo, hhi⟩ := pushedRam_reads (hiByte s.cpu.pc) (loByte s.cpu.pc) b s
  have e1 : s.cpu.sp - 3#8 + 1#8 = s.cpu.sp - 2#8 := by bv_omega
  have e2 : s.cpu.sp - 3#8 + 2#8 = s.cpu.sp - 1#8 := by bv_omega
  have e3 : s.cpu.sp - 3#8 + 3#8 = s.cpu.sp := by bv_omega
  rw [returnFromInterrupt_eq, hram, hsp, e1, e2, e3, hb, hlo, hhi, addrOf_loByte_hiByte]

/-- The CPU registers when RTI ends a handler entered with the status byte `b`. -/
theorem rti_afterEntry (b : Byte) {vec : Addr} (h : 0xFF00 ≤ vec.toNat) (h' : vec.toNat < 0xFFFF) (n : Nat) (s : State) :
    ∃ t, exec .rti ((enterHandler b vec s).addDebt n) = .next t ∧ t.cpu.pc = s.cpu.pc ∧ t.cpu.sp = s.cpu.sp ∧
      t.cpu.p = statusPulled b ∧ t.cpu.a = s.cpu.a ∧ t.cpu.x = s.cpu.x ∧ t.cpu.y = s.cpu.y := by
  obtain ⟨log, he⟩ := enterHandler_eq b vec s h h'
  have hcpu := returnFromInterrupt_cpu (t := (enterHandler b vec s).addDebt n) (s := s) (b := b) (by rw [he]; rfl)
    (by rw [he]; rfl)
  refine ⟨_, rfl, ?_⟩
  simp only [State.cost, State.addDebt_a, State.addDebt_x, State.addDebt_y, State.addDebt_sp, State.addDebt_pc,
    State.addDebt_p, hcpu, true_and]
  rw [he]
  exact ⟨rfl, rfl, rfl⟩

/-- RTI after an NMI or IRQ entry restores PC, SP and the status (R402, R410). -/
theorem rti_interrupt {vec : Addr} (h : 0xFF00 ≤ vec.toNat) (h' : vec.toNat < 0xFFFF) {s : State}
    (hp : StatusPolicy s.cpu.p) :
    ∃ t, exec .rti (interrupt vec s) = .next t ∧ t.cpu.pc = s.cpu.pc ∧ t.cpu.sp = s.cpu.sp ∧ t.cpu.p = s.cpu.p ∧
      t.cpu.a = s.cpu.a ∧ t.cpu.x = s.cpu.x ∧ t.cpu.y = s.cpu.y := by
  have hrti := rti_afterEntry (statusPushedByInterrupt s.cpu.p) h h' 7 s
  rwa [statusPulled_pushedByInterrupt hp] at hrti

theorem cpuIrq_of_enabled {s : State} (h : getFlag .i s.cpu.p = false) : cpuIrq s = interrupt irqVector s := by
  simp [cpuIrq, h]

/-- Settles O41: all three entries push through `enterHandler`, from which RTI returns. -/
theorem interruptReturnRoundTrip : Obligations.InterruptReturnRoundTrip := by
  intro s hp
  refine ⟨rti_interrupt (by decide) (by decide) hp, fun hi => ?_, ?_⟩
  · rw [cpuIrq_of_enabled hi]
    exact rti_interrupt (by decide) (by decide) hp
  · obtain ⟨u, hu, hpc, hsp, hstatus, -⟩ := rti_afterEntry (statusPushedByInstruction s.cpu.p) (vec := irqVector)
      (by decide) (by decide) 6 (s.setPc (s.cpu.pc + 1#16))
    rw [statusPulled_pushedByInstruction hp] at hstatus
    exact ⟨_, u, rfl, hu, hpc, hsp, hstatus⟩

end Sys2Proof.Machine
end

section
/-! The fields of a loopy register (10_state.md R41), bit by bit: where a field lies and what a write to it changes. -/

namespace Sys2Proof.Machine

/-- A field is a run of bits of its register. -/
theorem loopyGet_eq (f : LoopyField) (reg : LoopyReg) : loopyGet f reg = reg.toNat / 2 ^ f.offset % 2 ^ f.width := by
  have hones : f.ones.toNat = 2 ^ f.width - 1 := by cases f <;> rfl
  rw [loopyGet, BitVec.toNat_and, hones, Nat.and_two_pow_sub_one_eq_mod, BitVec.toNat_ushiftRight,
    Nat.shiftRight_eq_div_pow]

theorem testBit_loopyGet (f : LoopyField) (reg : LoopyReg) (i : Nat) :
    (loopyGet f reg).testBit i = (decide (i < f.width) && reg.getLsbD (f.offset + i)) := by
  rw [loopyGet_eq, Nat.testBit_mod_two_pow, Nat.testBit_div_two_pow, BitVec.getLsbD, Nat.add_comm]

/-- A field lies inside the fifteen bits. -/
theorem LoopyField.offset_add_width_le (f : LoopyField) : f.offset + f.width ≤ 15 := by cases f <;> decide

theorem LoopyField.getLsbD_ones (f : LoopyField) (i : Nat) : f.ones.getLsbD i = decide (i < f.width) := by
  have hin := f.offset_add_width_le
  rw [LoopyField.ones, BitVec.getLsbD_ofNat, Nat.testBit_two_pow_sub_one]
  simp only [Bool.and_eq_right_iff_imp, decide_eq_true_eq]
  omega

/-- Every bit of a register after a field write: the field holds the value, the other bits are kept. -/
theorem getLsbD_loopySet (f : LoopyField) (x : Nat) (reg : LoopyReg) (i : Nat) :
    (loopySet f x reg).getLsbD i =
      if f.offset ≤ i ∧ i < f.offset + f.width then x.testBit (i - f.offset) else reg.getLsbD i := by
  have hin := f.offset_add_width_le
  simp only [loopySet, BitVec.getLsbD_or, BitVec.getLsbD_and, BitVec.getLsbD_not, BitVec.getLsbD_shiftLeft,
    LoopyField.getLsbD_ones, BitVec.getLsbD_ofNat]
  by_cases hlo : f.offset ≤ i
  · by_cases hhi : i < f.offset + f.width
    · simp [hlo, hhi, Nat.not_lt.2 hlo, show i < 15 by omega, show i - f.offset < f.width by omega,
        show i - f.offset < 15 by omega]
    · simpa [hlo, hhi, show ¬i - f.offset < f.width by omega] using BitVec.lt_of_getLsbD
  · simpa [hlo, Nat.lt_of_not_le hlo] using BitVec.lt_of_getLsbD

/-- Distinct fields have no bit in common. -/
theorem LoopyField.disjoint {f g : LoopyField} (h : g ≠ f) :
    f.offset + f.width ≤ g.offset ∨ g.offset + g.width ≤ f.offset := by
  revert h
  cases f <;> cases g <;> decide

theorem loopyGet_loopySet_same (f : LoopyField) (x : Nat) (reg : LoopyReg) :
    loopyGet f (loopySet f x reg) = x % 2 ^ f.width := by
  refine Nat.eq_of_testBit_eq fun i => ?_
  rw [testBit_loopyGet, getLsbD_loopySet, Nat.testBit_mod_two_pow]
  by_cases hi : i < f.width
  · simp [hi]
  · simp [hi]

theorem loopyGet_loopySet_other {f g : LoopyField} (h : g ≠ f) (x : Nat) (reg : LoopyReg) :
    loopyGet g (loopySet f x reg) = loopyGet g reg := by
  have hdisjoint := LoopyField.disjoint h
  refine Nat.eq_of_testBit_eq fun i => ?_
  rw [testBit_loopyGet, testBit_loopyGet, getLsbD_loopySet]
  by_cases hi : i < g.width
  · rw [if_neg (by omega)]
  · simp [hi]

/-- Settles O17: a field is a quotient and a remainder of its register, and fields are disjoint runs of bits. -/
theorem loopyFieldWrites : Obligations.LoopyFieldWrites := by
  refine ⟨fun reg => ?_, fun f g x reg => ⟨loopyGet_loopySet_same f x reg, fun h => loopyGet_loopySet_other h x reg⟩,
    by decide⟩
  simp only [loopyGet_eq, LoopyField.offset, LoopyField.width]
  omega

end Sys2Proof.Machine
end

section
/-! ADC and SBC (46_adc_sbc.md R210 to R213): the addition in its unsigned and its signed reading, SBC as the addition of the
complement, and the dispatch of the 16 forms. -/

namespace Sys2Proof.Machine

theorem addWithCarry_value_toNat (a m : Byte) (c : Bool) :
    (addWithCarry a m c).value.toNat = (a.toNat + m.toNat + c.toNat) % 256 :=
  BitVec.toNat_ofNat _ 8

theorem addWithCarry_carry (a m : Byte) (c : Bool) :
    (addWithCarry a m c).carry = decide (256 ≤ a.toNat + m.toNat + c.toNat) :=
  rfl

/-- Overflow is the signed sum leaving the range of a byte (R212). -/
theorem addWithCarry_overflow (a m : Byte) (c : Bool) :
    (addWithCarry a m c).overflow =
      decide (a.toInt + m.toInt + c.toNat < -128 ∨ 127 < a.toInt + m.toInt + c.toNat) := by
  have hsum := addWithCarry_value_toNat a m c
  have hv : (addWithCarry a m c).overflow =
      ((a.msb != (addWithCarry a m c).value.msb) && (m.msb != (addWithCarry a m c).value.msb)) := by
    simp [addWithCarry]
  generalize (addWithCarry a m c).value = r at hsum hv
  have hc := c.toNat_le
  have hr := r.isLt
  rw [hv, Bool.eq_iff_iff]
  simp only [Bool.and_eq_true, bne_iff_ne, decide_eq_true_eq, BitVec.msb_eq_decide, ne_eq, decide_eq_decide,
    BitVec.toInt_eq_toNat_cond]
  omega

theorem byte_toNat_complement (m : Byte) : (m ^^^ 0xFF#8).toNat = 255 - m.toNat := by
  rw [show m ^^^ 0xFF#8 = ~~~m from BitVec.xor_allOnes, BitVec.toNat_not]

theorem byte_toInt_complement (m : Byte) : (m ^^^ 0xFF#8).toInt = -m.toInt - 1 := by
  have hm := m.isLt
  simp only [BitVec.toInt_eq_toNat_cond, byte_toNat_complement]
  omega

/-! ## The forms -/

/-- The byte a form adds to `A`: SBC adds the complement of its operand (R211). -/
def addend (sub : Bool) (m : Byte) : Byte := if sub then m ^^^ 0xFF#8 else m

/-- Each form reads its operand and makes one addition, in the cycles of its addressing mode (R470). -/
theorem exec_addForm {i : Instr} {sub : Bool} {o : Operand} {base : Nat} (h : addForm i = some (sub, o, base)) (s : State) :
    exec i s = readingInstr o base (fun m => adcA (addend sub m)) s := by
  cases i <;> cases h <;> rfl

/-- The flags of an addition other than C, V, Z and N are those before it. -/
theorem addFlags_kept (r : AddResult) (p : Byte) : flagsKept [.c, .z, .v, .n] p (addFlags r p) := by
  intro f hf
  simp only [List.mem_cons, List.not_mem_nil, or_false, not_or] at hf
  simp [getFlag_addFlags, hf]

/-- The unsigned operands of an addition, in the terms of a subtraction where it is one. -/
theorem addend_sum (sub : Bool) (a m : Byte) (c : Nat) :
    a.toNat + (addend sub m).toNat + c = if sub then a.toNat + 255 - m.toNat + c else a.toNat + m.toNat + c := by
  have hm := m.isLt
  cases sub with
  | false => rfl
  | true =>
    simp only [addend, if_true, byte_toNat_complement]
    omega

/-- The signed operands of an addition, in the terms of a subtraction where it is one. -/
theorem addend_signedSum (sub : Bool) (a m : Byte) (c : Nat) :
    a.toInt + (addend sub m).toInt + c = if sub then a.toInt - m.toInt - 1 + c else a.toInt + m.toInt + c := by
  cases sub with
  | false => rfl
  | true =>
    simp only [addend, if_true, byte_toInt_complement]
    omega

/-- The registers after an addition: `A` and `P`, and the cycles owed. -/
theorem adcA_cost_cpu (m : Byte) (n : Nat) {s t : State} (h : t.cpu = s.cpu) :
    ((adcA m t).cost n).cpu =
      { s.cpu with
        a := (addWithCarry s.cpu.a m (getFlag .c s.cpu.p)).value
        p := addFlags (addWithCarry s.cpu.a m (getFlag .c s.cpu.p)) s.cpu.p
        debt := s.cpu.debt + (n - 1) } := by
  rw [← h]
  rfl

theorem regsKept_setAP (c : Cpu) (a p : Byte) (debt : Nat) :
    regsKept [.a, .p] c { c with a := a, p := p, debt := debt } := by
  intro r hr
  cases r with
  | a => simp at hr
  | p => simp at hr
  | x | y | sp | pc => rfl

/-- Settles O29: every form is one addition, of the operand byte or of its complement. -/
theorem addSubtractInstructions : Obligations.AddSubtractInstructions := by
  intro i sub o base s h
  have hexec := exec_addForm h s
  rw [readingInstr_eq] at hexec
  have hcpu := adcA_cost_cpu (addend sub (operandByte o s)) (base + crossCycle o s) (operandAfter_cpu o s)
  have hframe : sameOutsideCpu (operandAfter o s)
      ((adcA (addend sub (operandByte o s)) (operandAfter o s)).cost (base + crossCycle o s)) := rfl
  dsimp only
  rw [← addend_sum, ← addend_signedSum]
  refine ⟨_, hexec, ?_⟩
  rw [hcpu]
  refine ⟨addWithCarry_value_toNat _ _ _, ?_, ?_, ?_, ?_, addFlags_kept _ _, regsKept_setAP _ _ _ _, rfl, rfl, hframe,
    operandAfter_memoryReadOnly hframe⟩
  · exact (getFlag_addFlags .c _ _).trans (addWithCarry_carry _ _ _)
  · exact (getFlag_addFlags .v _ _).trans (addWithCarry_overflow _ _ _)
  · exact getFlag_addFlags .z _ _
  · exact getFlag_addFlags .n _ _

end Sys2Proof.Machine
end

section
/-! Which flags and registers an instruction writes (10_state.md R20, R21, R22, R24): each register update and each access
changes at most what the spec lists for the instruction, and every instruction is made of these. -/

namespace Sys2Proof.Machine

/-! ## Flags -/

/-- Two status bytes agree in every flag that R24 does not let an instruction write. -/
def FlagsOnly (i : Instr) (p q : Byte) : Prop := ∀ f, mayWriteFlag f i = false → getFlag f q = getFlag f p

namespace FlagsOnly

variable {i : Instr} {p q : Byte}

theorem setFlag {f : Flag} (hf : mayWriteFlag f i = true) (v : Bool) (h : FlagsOnly i p q) :
    FlagsOnly i p (Machine.setFlag f v q) := by
  intro g hg
  have hne : g ≠ f := by
    rintro rfl
    simp [hf] at hg
  rw [getFlag_setFlag_other hne, h g hg]

theorem setZN (hz : mayWriteFlag .z i = true) (hn : mayWriteFlag .n i = true) (r : Byte) (h : FlagsOnly i p q) :
    FlagsOnly i p (Machine.setZN r q) :=
  (h.setFlag hz _).setFlag hn _

/-- PLP and RTI may write every flag but Break and Unused, which they leave at the status policy of R25. -/
theorem pulled (hi : ∀ f, mayWriteFlag f i = false → f = .b ∨ f = .u) (hp : StatusPolicy p) (b : Byte) :
    FlagsOnly i p (statusPulled b) := by
  obtain ⟨hb, hu⟩ := (status_policy_iff p).1 hp
  intro f hf
  rw [getFlag_statusPulled]
  rcases hi f hf with rfl | rfl
  · exact hb.symm
  · exact hu.symm

end FlagsOnly

/-! ## Register updates and accesses -/

/-- `t` differs from `s` in no flag and no register but those the spec lets an instruction write. -/
structure WritesOnly (i : Instr) (s t : State) : Prop where
  flag : FlagsOnly i s.cpu.p t.cpu.p
  reg : ∀ r, mayWriteReg r i = false → t.cpu.reg r = s.cpu.reg r

namespace WritesOnly

variable {i : Instr} {s t u : State}

theorem refl : WritesOnly i s s := ⟨fun _ _ => rfl, fun _ _ => rfl⟩

/-- What changes no CPU register. -/
theorem of_cpu (h : WritesOnly i s t) (e : u.cpu = t.cpu) : WritesOnly i s u := ⟨e ▸ h.flag, e ▸ h.reg⟩

/-- What changes one register other than `P`, and that a register the instruction may write. -/
theorem of_reg (h : WritesOnly i s t) {r : RegName} (hr : mayWriteReg r i = true) (hp : u.cpu.p = t.cpu.p)
    (hu : ∀ q, q ≠ r → u.cpu.reg q = t.cpu.reg q) : WritesOnly i s u := by
  refine ⟨hp ▸ h.flag, fun q hq => ?_⟩
  have hne : q ≠ r := by
    rintro rfl
    simp [hr] at hq
  rw [hu q hne, h.reg q hq]

theorem setA (h : WritesOnly i s t) (ha : mayWriteReg .a i = true) (v : Byte) : WritesOnly i s (t.setA v) :=
  h.of_reg ha rfl fun q hq => by cases q <;> simp_all [Cpu.reg]

theorem setX (h : WritesOnly i s t) (hx : mayWriteReg .x i = true) (v : Byte) : WritesOnly i s (t.setX v) :=
  h.of_reg hx rfl fun q hq => by cases q <;> simp_all [Cpu.reg]

theorem setY (h : WritesOnly i s t) (hy : mayWriteReg .y i = true) (v : Byte) : WritesOnly i s (t.setY v) :=
  h.of_reg hy rfl fun q hq => by cases q <;> simp_all [Cpu.reg]

theorem setSp (h : WritesOnly i s t) (hsp : mayWriteReg .sp i = true) (v : Byte) : WritesOnly i s (t.setSp v) :=
  h.of_reg hsp rfl fun q hq => by cases q <;> simp_all [Cpu.reg]

theorem setPc (h : WritesOnly i s t) (hpc : mayWriteReg .pc i = true) (v : Addr) : WritesOnly i s (t.setPc v) :=
  h.of_reg hpc rfl fun q hq => by cases q <;> simp_all [Cpu.reg]

/-- Every instruction may write `P`; which flags of it, `FlagsOnly` says. -/
theorem setP {p : Byte} (h : WritesOnly i s t) (hp : FlagsOnly i s.cpu.p p) : WritesOnly i s (t.setP p) := by
  refine ⟨hp, fun r hr => ?_⟩
  cases r with
  | p => cases hr
  | a | x | y | sp | pc => exact h.reg _ hr

theorem setZN (h : WritesOnly i s t) (hz : mayWriteFlag .z i = true) (hn : mayWriteFlag .n i = true) (r : Byte) :
    WritesOnly i s (t.setZN r) :=
  h.setP (h.flag.setZN hz hn r)

theorem setFlag (h : WritesOnly i s t) {f : Flag} (hf : mayWriteFlag f i = true) (v : Bool) :
    WritesOnly i s (t.setFlag f v) :=
  h.setP (h.flag.setFlag hf v)

theorem cost (h : WritesOnly i s t) (n : Nat) : WritesOnly i s (t.cost n) := by
  refine ⟨h.flag, fun r hr => ?_⟩
  rw [← h.reg r hr]
  cases r <;> rfl

theorem read (h : WritesOnly i s t) (a : Addr) : WritesOnly i s (memRead a t).2 := h.of_cpu (memRead_cpu a t)

theorem write (h : WritesOnly i s t) (a : Addr) (v : Byte) : WritesOnly i s (memWrite a v t) :=
  h.of_cpu (memWrite_cpu a v t)

theorem record (h : WritesOnly i s t) (e : LogEvent) : WritesOnly i s (t.record e) := h.of_cpu rfl

theorem push (h : WritesOnly i s t) (hsp : mayWriteReg .sp i = true) (v : Byte) : WritesOnly i s (Machine.push v t) :=
  (h.write _ v).setSp hsp _

theorem pull (h : WritesOnly i s t) (hsp : mayWriteReg .sp i = true) : WritesOnly i s (Machine.pull t).2 :=
  (h.setSp hsp _).read _

theorem push16 (h : WritesOnly i s t) (hsp : mayWriteReg .sp i = true) (v : Addr) :
    WritesOnly i s (Machine.push16 v t) :=
  (h.push hsp _).push hsp _

theorem pull16 (h : WritesOnly i s t) (hsp : mayWriteReg .sp i = true) : WritesOnly i s (Machine.pull16 t).2 :=
  (h.pull hsp).pull hsp

theorem enterHandler (h : WritesOnly i s t) (hsp : mayWriteReg .sp i = true) (hi : mayWriteFlag .i i = true)
    (hpc : mayWriteReg .pc i = true) (b : Byte) (vec : Addr) : WritesOnly i s (Machine.enterHandler b vec t) := by
  have hpush : WritesOnly i s (Machine.push b (Machine.push16 t.cpu.pc t)) := (h.push16 hsp _).push hsp _
  exact (((hpush.setFlag hi true).read _).read _).setPc hpc _

/-! ## The shapes of an instruction -/

theorem loadA (h : WritesOnly i s t) (ha : mayWriteReg .a i = true) (hz : mayWriteFlag .z i = true)
    (hn : mayWriteFlag .n i = true) (m : Byte) : WritesOnly i s (Machine.loadA m t) :=
  (h.setA ha m).setZN hz hn m

theorem readingInstr {o : Operand} {base : Nat} {f : Byte → State → State}
    (h : Machine.readingInstr o base f s = .next t) (hf : ∀ m u, WritesOnly i s u → WritesOnly i s (f m u)) :
    WritesOnly i s t := by
  rw [readingInstr_eq] at h
  cases h
  exact (hf _ _ (refl.of_cpu (operandAfter_cpu o s))).cost _

theorem storingInstr {o : Operand} {base : Nat} {v : Byte} (h : Machine.storingInstr o base v s = .next t) :
    WritesOnly i s t := by
  rw [storingInstr_eq] at h
  cases h
  exact (refl.write _ _).cost _

theorem modifyingInstr {o : Operand} {base : Nat} {f : Byte → Byte → ModifyResult}
    (h : Machine.modifyingInstr o base f s = .next t)
    (hf : ∀ m q, FlagsOnly i s.cpu.p q → FlagsOnly i s.cpu.p (f m q).status) : WritesOnly i s t := by
  simp only [Machine.modifyingInstr, resolve_st] at h
  cases h
  have hread : WritesOnly i s (memRead (resolve o s).ea s).2 := refl.read _
  exact ((hread.write _ _).setP (hf _ _ hread.flag)).cost _

theorem branchIf {c : Bool} {off : Byte} (h : Machine.branchIf c off s = .next t) (hpc : mayWriteReg .pc i = true) :
    WritesOnly i s t := by
  unfold Machine.branchIf at h
  split at h
  · cases h
    exact (refl.setPc hpc _).cost _
  · cases h
    exact refl.cost _

end WritesOnly

/-- Every instruction writes only what the spec lists for it. -/
theorem exec_writesOnly {i : Instr} {s t : State} (h : exec i s = .next t) (hs : StatusPolicy s.cpu.p) :
    WritesOnly i s t := by
  have h0 : WritesOnly i s s := .refl
  cases i
  case bcc | bcs | beq | bne | bmi | bpl | bvc | bvs => exact .branchIf h rfl
  case ldaImm | ldaZp | ldaZpX | ldaAbs | ldaAbsX | ldaAbsY | ldaIndX | ldaIndY | andImm | andZp | andZpX | andAbs |
    andAbsX | andAbsY | andIndX | andIndY | oraImm | oraZp | oraZpX | oraAbs | oraAbsX | oraAbsY | oraIndX | oraIndY |
    eorImm | eorZp | eorZpX | eorAbs | eorAbsX | eorAbsY | eorIndX | eorIndY =>
    exact .readingInstr h fun _ _ hu => hu.loadA rfl rfl rfl _
  case ldxImm | ldxZp | ldxZpY | ldxAbs | ldxAbsY =>
    exact .readingInstr h fun m _ hu => (hu.setX rfl m).setZN rfl rfl m
  case ldyImm | ldyZp | ldyZpX | ldyAbs | ldyAbsX =>
    exact .readingInstr h fun m _ hu => (hu.setY rfl m).setZN rfl rfl m
  case bitZp | bitAbs =>
    exact .readingInstr h fun _ _ hu => hu.setP (((hu.flag.setFlag rfl _).setFlag rfl _).setFlag rfl _)
  case cmpImm | cmpZp | cmpZpX | cmpAbs | cmpAbsX | cmpAbsY | cmpIndX | cmpIndY | cpxImm | cpxZp | cpxAbs | cpyImm |
    cpyZp | cpyAbs =>
    exact .readingInstr h fun _ _ hu => hu.setP (((hu.flag.setFlag rfl _).setFlag rfl _).setFlag rfl _)
  case adcImm | adcZp | adcZpX | adcAbs | adcAbsX | adcAbsY | adcIndX | adcIndY | sbcImm | sbcZp | sbcZpX | sbcAbs |
    sbcAbsX | sbcAbsY | sbcIndX | sbcIndY =>
    exact .readingInstr h fun _ _ hu => (hu.setA rfl _).setP (((hu.flag.setFlag rfl _).setFlag rfl _).setZN rfl rfl _)
  case staZp | staZpX | staAbs | staAbsX | staAbsY | staIndX | staIndY | stxZp | stxZpY | stxAbs | styZp | styZpX |
    styAbs =>
    exact .storingInstr h
  case incZp | incZpX | incAbs | incAbsX | decZp | decZpX | decAbs | decAbsX =>
    exact .modifyingInstr h fun _ _ hq => hq.setZN rfl rfl _
  case aslZp | aslZpX | aslAbs | aslAbsX | lsrZp | lsrZpX | lsrAbs | lsrAbsX | rolZp | rolZpX | rolAbs | rolAbsX |
    rorZp | rorZpX | rorAbs | rorAbsX =>
    exact .modifyingInstr h fun _ _ hq => (hq.setFlag rfl _).setZN rfl rfl _
  case aslAcc | lsrAcc | rolAcc | rorAcc =>
    cases h
    exact ((h0.setA rfl _).setP ((h0.flag.setFlag rfl _).setZN rfl rfl _)).cost _
  case tax | tsx | inx | dex =>
    cases h
    exact ((h0.setX rfl _).setZN rfl rfl _).cost _
  case tay | iny | dey =>
    cases h
    exact ((h0.setY rfl _).setZN rfl rfl _).cost _
  case txa | tya =>
    cases h
    exact (h0.loadA rfl rfl rfl _).cost _
  case txs =>
    cases h
    exact (h0.setSp rfl _).cost _
  case clc | sec | cli | sei | cld | sed | clv =>
    cases h
    exact (h0.setFlag rfl _).cost _
  case nop =>
    cases h
    exact h0.cost _
  case und =>
    cases h
    exact (h0.record _).cost _
  case pha | php =>
    cases h
    exact (h0.push rfl _).cost _
  case pla =>
    cases h
    exact ((h0.pull rfl).loadA rfl rfl rfl _).cost _
  case plp =>
    cases h
    exact ((h0.pull rfl).setP (.pulled (by rintro ⟨⟩ <;> decide) hs _)).cost _
  case jmpAbs =>
    cases h
    exact (h0.setPc rfl _).cost _
  case jmpInd =>
    cases h
    exact (((h0.read _).read _).setPc rfl _).cost _
  case jsr =>
    cases h
    exact ((h0.push16 rfl _).setPc rfl _).cost _
  case rts =>
    cases h
    exact ((h0.pull16 rfl).setPc rfl _).cost _
  case rti =>
    cases h
    have hp := (h0.pull rfl).setP (.pulled (by rintro ⟨⟩ <;> decide) hs (pull s).1)
    exact ((hp.pull16 rfl).setPc rfl _).cost _
  case brk =>
    cases h
    exact ((h0.setPc rfl (s.cpu.pc + 1#16)).enterHandler rfl rfl rfl _ _).cost _

/-- Settles O43: a flag or a register that the spec does not list is kept. -/
theorem onlyListedWriters : Obligations.OnlyListedWriters := by
  intro i s t hs h
  obtain ⟨hflag, hreg⟩ := exec_writesOnly h hs
  exact ⟨fun f hne => Bool.eq_true_of_not_eq_false fun e => hne (hflag f e),
    fun r hne => Bool.eq_true_of_not_eq_false fun e => hne (hreg r e)⟩

end Sys2Proof.Machine
end

section
/-! The CPU bus address by address (20_memory.md R74 to R84, R91, R94): who answers an access, what it gives and what it
changes; the controller ports over any number of reads; the insertion of a cartridge (R92, R445). -/

namespace Sys2Proof.Machine

/-! ## RAM and the PPU registers -/

/-- Settles O5: a RAM write is one byte of RAM, which a bus read finds at its mirrors only. -/
theorem ramMirrorReadAfterWrite : Obligations.RamMirrorReadAfterWrite := by
  intro s a b v ha
  rw [memWrite_ram ha]
  refine ⟨rfl, fun ⟨_, hb, he⟩ => ?_, fun h => ?_⟩
  · rw [busByte_ramWrite, if_pos ⟨hb, he.symm⟩]
  · rw [busByte_ramWrite, if_neg fun ⟨hb, he⟩ => h ⟨ha, hb, he.symm⟩]

/-- Settles O6: an access depends on its address through the register number only. -/
theorem ppuRegisterMirror : Obligations.PpuRegisterMirror := by
  intro s a b v ha ha' hb hb' h
  rw [memRead_ppuRegister ha ha', memRead_ppuRegister hb hb', memWrite_ppuRegister ha ha', memWrite_ppuRegister hb hb', h]
  exact ⟨rfl, rfl⟩

/-! ## The OAM-DMA register and the unclaimed addresses -/

/-- A write to 0x4014 arms a transfer (R82). -/
theorem memWrite_oamDma (v : Byte) (s : State) : memWrite 0x4014#16 v s = dmaArm v s := by
  have hregion : busRegion 0x4014#16 = .oamDma := by decide
  simp [memWrite, cartCpuWrite_low s.cart (a := 0x4014#16) (by decide), hregion]

/-- A read of 0x4014 gives 0x00 and is logged (R82). -/
theorem memRead_oamDma (s : State) : memRead 0x4014#16 s = (0x00#8, s.record (.outOfRange 0x4014#16 false)) := by
  have hregion : busRegion 0x4014#16 = .oamDma := by decide
  simp [memRead, cartCpuRead_low s.cart (a := 0x4014#16) (by decide), hregion]

/-- A read of an address nobody claims gives 0x00 and is logged (R83). -/
theorem memRead_unclaimed {s : State} {a : Addr} (h : unclaimedAddr s a) :
    memRead a s = (0x00#8, s.record (.outOfRange a false)) := by
  obtain ⟨hregion, hcart⟩ := busRegion_unclaimed h
  simp [memRead, hcart, hregion]

/-- A write to an address nobody claims is logged (R83). -/
theorem memWrite_unclaimed {s : State} {a : Addr} (h : unclaimedAddr s a) (v : Byte) :
    memWrite a v s = s.record (.outOfRange a true) := by
  obtain ⟨hregion, hcart⟩ := busRegion_unclaimed h
  simp [memWrite, cartCpuWrite_eq, hcart, hregion]

/-- Settles O12, by the rules for the two accesses of 0x4014. -/
theorem dmaTriggerArms : Obligations.DmaTriggerArms := fun s v => ⟨memWrite_oamDma v s, memRead_oamDma s⟩

/-- Settles O7, with the read of 0x4014 beside the unclaimed addresses. -/
theorem unclaimedAccessesAreLogged : Obligations.UnclaimedAccessesAreLogged := by
  refine fun s a v => ⟨?_, fun h => memWrite_unclaimed h v⟩
  rintro (h | rfl)
  · exact memRead_unclaimed h
  · exact memRead_oamDma s

/-! ## The cartridge window -/

/-- With a cartridge, a write to its window is discarded (R94). -/
theorem memWrite_prg {s : State} {c : Cartridge} (hc : s.cart = some c) {a : Addr} (h : 0x8000 ≤ a.toNat) (v : Byte) :
    memWrite a v s = s := by
  simp [memWrite, hc, cartCpuWrite, nromCpu, h]

/-- Settles O9: with one bank the window has 0x4000 bytes, so an address and the one 0x4000 above it name the same byte. -/
theorem cartridgeWindow : Obligations.CartridgeWindow := by
  intro s c a v hc ha
  refine ⟨memRead_prg hc ha, memWrite_prg hc ha v, fun hb hlt => ?_⟩
  have hadd : (a + 0x4000#16).toNat = a.toNat + 0x4000 := by
    rw [BitVec.toNat_add, BitVec.toNat_ofNat]
    omega
  rw [busByte, busByte, memRead_prg hc ha, memRead_prg hc (show 0x8000 ≤ (a + 0x4000#16).toNat by omega), if_pos hb, hadd,
    Nat.add_mod_right]

theorem insertCartridge_illegal (p : Params) {c : Cartridge} (h : c.legal = false) (s : State) :
    insertCartridge p c s = s := by
  simp [insertCartridge, h]

/-- Inserting a legal cartridge is wiring it in and a reset (R445). -/
theorem insertCartridge_legal (p : Params) {c : Cartridge} (h : c.legal = true) (hwf : c.wf = true) (s : State) :
    insertCartridge p c s = systemReset p { s with cart := some c } := by
  simp [insertCartridge, h, hwf]

/-- Settles O10: what a reset of the machine with the new cartridge leaves. -/
theorem insertCartridgeEffect : Obligations.InsertCartridgeEffect := by
  refine fun p s c => ⟨fun h => insertCartridge_illegal p h s, fun h hwf => ?_⟩
  dsimp only
  rw [insertCartridge_legal p h hwf]
  have houtside := systemReset_outsideCpu p { s with cart := some c }
  have hlog := systemReset_log (s := { s with cart := some c }) p (Option.some_ne_none c)
  have hcart : (systemReset p { s with cart := some c }).cart = some c := by rw [systemReset_eq p rfl]
  exact ⟨hcart, rfl, rfl, rfl, rfl, rfl, systemReset_pc p _, rfl, rfl, houtside, hlog⟩

/-! ## The controller ports -/

/-- The address of a controller port (R80, R81). -/
def controllerAddr (port : Fin 2) : Addr := if port = 0 then 0x4016#16 else 0x4017#16

theorem busRegion_controllerAddr (port : Fin 2) : busRegion (controllerAddr port) = .controller port := by
  revert port
  decide

theorem controllerAddr_low (port : Fin 2) : (controllerAddr port).toNat < 0x8000 := by
  revert port
  decide

theorem memRead_controller (port : Fin 2) (s : State) : memRead (controllerAddr port) s = controllerRead port s := by
  simp [memRead, cartCpuRead_low s.cart (controllerAddr_low port), busRegion_controllerAddr]

theorem memWrite_controller (port : Fin 2) (v : Byte) (s : State) :
    memWrite (controllerAddr port) v s = controllerWrite port s := by
  simp [memWrite, cartCpuWrite_low s.cart (controllerAddr_low port), busRegion_controllerAddr]

/-- Reading a port so many times shifts its register as often, and changes nothing else (R81). -/
theorem readTimes_controller (port : Fin 2) (k : Nat) (s : State) :
    readTimes (controllerAddr port) k s = { s with ctrlShift := s.ctrlShift.set port (s.ctrlShift[port] <<< k) } := by
  induction k generalizing s with
  | zero => simp [readTimes]
  | succ k ih =>
    rw [readTimes, memRead_controller, ih]
    simp [controllerRead, BitVec.shiftLeft_add, Nat.add_comm k 1]

/-- Settles O11: after `k` reads the register holds the button byte shifted `k` times. -/
theorem controllerShiftsOutButtons : Obligations.ControllerShiftsOutButtons := by
  intro s port v k
  change busByte (controllerAddr port) (readTimes (controllerAddr port) k (memWrite (controllerAddr port) v s)) = _ ∧
    ∀ other : Fin 2, other ≠ port →
      (readTimes (controllerAddr port) k (memWrite (controllerAddr port) v s)).ctrlShift[other] = s.ctrlShift[other]
  rw [memWrite_controller, readTimes_controller]
  refine ⟨?_, fun other hne => ?_⟩
  · simp [busByte, memRead_controller, controllerRead, controllerWrite, BitVec.getMsbD_eq_getLsbD]
  · have hne' : port.val ≠ other.val := fun h => hne (Fin.ext h.symm)
    simp [controllerWrite, hne']

/-! ## The side effects of a read -/

/-- Any bus read leaves the log as it is, or adds that nobody claimed the address. -/
theorem memRead_log (a : Addr) (s : State) :
    (memRead a s).2.log = s.log ∨ (memRead a s).2.log = .outOfRange a false :: s.log := by
  have hppu (r : Nat) : (ppuRegRead r s).2.log = s.log := by
    unfold ppuRegRead
    split <;> rfl
  unfold memRead
  split
  · exact .inl rfl
  · split
    · exact .inl rfl
    · exact .inl (hppu _)
    · exact .inl rfl
    · exact .inr rfl
    · exact .inr rfl

/-- A read of an address that R74 does not list changes nothing, or logs that nobody claimed it. -/
theorem memRead_quiet_cases {a : Addr} (h : readSideEffect a = false) (s : State) :
    (memRead a s).2 = s ∨ (memRead a s).2 = { s with log := .outOfRange a false :: s.log } := by
  have hquiet := memRead_quiet h s
  rcases memRead_log a s with hlog | hlog
  · rw [hlog] at hquiet
    exact .inl hquiet
  · rw [hlog] at hquiet
    exact .inr hquiet

/-- The data port reads the PPU bus at `v`: a PPU-bus address counts modulo 0x4000 (R97). -/
theorem ppuRead_dataAddr (cart : Option Cartridge) (u : Ppu) :
    ppuRead cart u u.dataAddr = ppuRead cart u (u.v.setWidth 16) :=
  ppuRead_congr (by simp)

/-- Settles O8: the quiet addresses have no effect but the log, each of the others its register's or its port's. -/
theorem busReadSideEffects : Obligations.BusReadSideEffects := by
  intro s a
  refine ⟨fun h => memRead_quiet_cases h s, fun h h' hr => ?_, fun h h' hr => ?_, congrArg Prod.snd (memRead_controller 0 s),
    congrArg Prod.snd (memRead_controller 1 s)⟩
  · rw [memRead_ppuRegister h h', hr]
    rfl
  · rw [memRead_ppuRegister h h', hr, ← ppuRead_dataAddr]
    rfl

end Sys2Proof.Machine
end

section
/-! The PPU bus (20_memory.md R97 to R102): a read and a write by range, and what a read gives after a write. -/

namespace Sys2Proof.Machine

/-! ## One range at a time -/

section

variable (cart : Option Cartridge) (u : Ppu) (s : State) (x : Byte) {a b : Addr}

theorem ppuRead_pattern (h : a.toNat % 0x4000 < 0x2000) :
    ppuRead cart u a = (cartPpuRead cart (a.toNat % 0x4000)).getD (Memory.read u.pat (a.toNat % 0x4000)) := by
  simp only [ppuRead]
  rw [if_pos (by omega)]

theorem ppuRead_nametable (h : 0x2000 ≤ a.toNat % 0x4000) (h' : a.toNat % 0x4000 < 0x3F00) :
    ppuRead cart u a = Memory.read u.nt (nametableIndex (mirroringOf cart) (a.toNat % 0x4000)) := by
  simp only [ppuRead]
  rw [if_neg (by omega), if_pos (by omega)]

theorem ppuRead_palette (h : 0x3F00 ≤ a.toNat % 0x4000) :
    ppuRead cart u a = Memory.read u.pal (paletteIndex (a.toNat % 0x4000)) &&& u.paletteMask := by
  simp only [ppuRead]
  rw [if_neg (by omega), if_neg (by omega)]

theorem ppuWrite_nametable (h : 0x2000 ≤ a.toNat % 0x4000) (h' : a.toNat % 0x4000 < 0x3F00) :
    ppuWrite a x s =
      { s with
        ppu :=
          { s.ppu with
            nt := Memory.write s.ppu.nt (nametableIndex (mirroringOf s.cart) (a.toNat % 0x4000)) x } } := by
  simp only [ppuWrite]
  rw [if_neg (by omega), if_pos (by omega)]

theorem ppuWrite_palette (h : 0x3F00 ≤ a.toNat % 0x4000) :
    ppuWrite a x s =
      { s with ppu := { s.ppu with pal := Memory.write s.ppu.pal (paletteIndex (a.toNat % 0x4000)) x } } := by
  simp only [ppuWrite]
  rw [if_neg (by omega), if_neg (by omega)]

/-- A PPU-bus write depends on its address modulo 0x4000 (R97). -/
theorem ppuWrite_congr (h : a.toNat % 0x4000 = b.toNat % 0x4000) : ppuWrite a x s = ppuWrite b x s := by
  unfold ppuWrite
  rw [h]

/-- A PPU-bus write changes no register of the PPU (R99). -/
theorem ppuWrite_ppu :
    (ppuWrite a x s).ppu =
      { s.ppu with
        nt := (ppuWrite a x s).ppu.nt
        pal := (ppuWrite a x s).ppu.pal
        pat := (ppuWrite a x s).ppu.pat } := by
  simp only [ppuWrite]
  split
  · split <;> rfl
  · split <;> rfl

/-! ## A read after a write -/

/-- Two nametable addresses name the same byte of the store exactly when table and offset agree (R101). -/
theorem nametableIndex_inj (m : Mirroring) (i j : Nat) :
    nametableIndex m i = nametableIndex m j ↔ physicalTable m i = physicalTable m j ∧ i % 1024 = j % 1024 := by
  unfold nametableIndex
  omega

/-- The palette entry of an address: the entries divisible by 4 repeat every 16 bytes, the others every 32 (R102). -/
theorem paletteIndex_eq (i : Nat) : paletteIndex i = if i % 4 = 0 then i % 16 else i % 32 := by
  simp only [paletteIndex]
  split <;> split <;> omega

variable {s}

/-- A pattern write is read back unless the cartridge's CHR is ROM (R93, R100). -/
theorem ppuRead_ppuWrite_pattern (h : a.toNat % 0x4000 < 0x2000) (hchr : ∀ c, s.cart = some c → c.chrBanks = 0#8) :
    ppuRead (ppuWrite a x s).cart (ppuWrite a x s).ppu a = x := by
  have hle : a.toNat % 0x4000 ≤ 0x1FFF := by omega
  rw [ppuRead_pattern _ _ h]
  cases hc : s.cart with
  | none => simp [ppuWrite, hle, hc, cartPpuWrite, cartPpuRead]
  | some c => simp [ppuWrite, hle, hc, cartPpuWrite, nromPpuWrite, hchr c hc, cartPpuRead, nromPpuRead]

/-- A nametable write is read back at the addresses of the same table and offset (R101). -/
theorem ppuRead_ppuWrite_nametable (ha : 0x2000 ≤ a.toNat % 0x4000) (ha' : a.toNat % 0x4000 < 0x3F00)
    (hb : 0x2000 ≤ b.toNat % 0x4000) (hb' : b.toNat % 0x4000 < 0x3F00) :
    ppuRead (ppuWrite a x s).cart (ppuWrite a x s).ppu b =
      if nametableIndex (mirroringOf s.cart) (b.toNat % 0x4000) = nametableIndex (mirroringOf s.cart) (a.toNat % 0x4000)
      then x else ppuRead s.cart s.ppu b := by
  rw [ppuWrite_nametable s x ha ha', ppuRead_nametable _ _ hb hb', ppuRead_nametable _ _ hb hb', Memory.read_write]

/-- A palette write is read back, masked, at the addresses of the same entry (R102). -/
theorem ppuRead_ppuWrite_palette (ha : 0x3F00 ≤ a.toNat % 0x4000) (hb : 0x3F00 ≤ b.toNat % 0x4000) :
    ppuRead (ppuWrite a x s).cart (ppuWrite a x s).ppu b =
      if paletteIndex (b.toNat % 0x4000) = paletteIndex (a.toNat % 0x4000) then x &&& s.ppu.paletteMask
      else ppuRead s.cart s.ppu b := by
  rw [ppuWrite_palette s x ha, ppuRead_palette _ _ hb, ppuRead_palette _ _ hb, Memory.read_write]
  split <;> rfl

end

/-! ## Nametables and palette -/

/-- The physical table of every mirroring mode, from the 1 KB stride of a nametable address (R101). -/
theorem physicalTable_eq (a : Nat) :
    physicalTable .vertical a = a / 0x400 % 4 % 2 ∧ physicalTable .horizontal a = a / 0x400 % 4 / 2 ∧
    physicalTable .oneScreenLo a = 0 ∧ physicalTable .oneScreenHi a = 1 := by
  have hstride : a % 0x1000 / 0x400 = a / 0x400 % 4 := by omega
  simp only [physicalTable, hstride, and_self]

/-- Settles O13: a nametable access is one byte of the store, whose place is a table and an offset. -/
theorem nametableMirroring : Obligations.NametableMirroring := by
  refine ⟨fun a _ _ => physicalTable_eq a, rfl, fun c => rfl, fun s a b x ha ha' hb hb' => ?_⟩
  have hamod : a.toNat % 0x4000 = a.toNat := Nat.mod_eq_of_lt (by omega)
  have hbmod : b.toNat % 0x4000 = b.toNat := Nat.mod_eq_of_lt (by omega)
  have hwrite := ppuWrite_nametable s x (a := a) (by omega) (by omega)
  have hread := ppuRead_nametable s.cart s.ppu (a := a) (by omega) (by omega)
  have hback := ppuRead_ppuWrite_nametable (s := s) x (a := a) (b := b) (by omega) (by omega) (by omega) (by omega)
  rw [hamod] at hread
  rw [hamod, hbmod] at hback
  exact ⟨by rw [hwrite], hread, hback.trans (if_congr (eq_comm.trans (nametableIndex_inj _ _ _)) rfl rfl)⟩

/-- Settles O14: two palette addresses name the same entry exactly when their `paletteIndex` agrees. -/
theorem paletteMirroring : Obligations.PaletteMirroring := by
  intro s a b x ha ha' hb hb'
  have hamod : a.toNat % 0x4000 = a.toNat := Nat.mod_eq_of_lt (by omega)
  have hbmod : b.toNat % 0x4000 = b.toNat := Nat.mod_eq_of_lt (by omega)
  have hback := ppuRead_ppuWrite_palette (s := s) x (a := a) (b := b) (by omega) (by omega)
  rw [hamod, hbmod, paletteIndex_eq, paletteIndex_eq] at hback
  exact hback.trans (if_congr eq_comm rfl rfl)

end Sys2Proof.Machine
end

section
/-! The PPU's data, status and OAM ports (50_ppu_registers.md R278 to R288). -/

namespace Sys2Proof.Machine

/-! ## The data port -/

theorem ppuWrite_dataAddr (x : Byte) (s : State) :
    ppuWrite s.ppu.dataAddr x s = ppuWrite (s.ppu.v.setWidth 16) x s :=
  ppuWrite_congr s x (by simp)

/-- A data read gives the byte at `v` in the palette and the buffer below it, refills the buffer and advances `v` (R285). -/
theorem memRead_dataPort (s : State) :
    memRead 0x2007#16 s =
      (if 0x3F00 ≤ s.ppu.v.toNat % 0x4000 then ppuRead s.cart s.ppu (s.ppu.v.setWidth 16) else s.ppu.dataBuf,
        { s with
          ppu := Ppu.advanceV { s.ppu with dataBuf := ppuRead s.cart s.ppu (s.ppu.v.setWidth 16) } }) := by
  rw [memRead_ppuRegister (by decide) (by decide), ← ppuRead_dataAddr, ← Ppu.dataAddr_toNat]
  rfl

/-- A data write is the PPU-bus write at `v`, which then advances (R286). -/
theorem memWrite_dataPort (x : Byte) (s : State) :
    memWrite 0x2007#16 x s =
      { ppuWrite (s.ppu.v.setWidth 16) x s with ppu := (ppuWrite (s.ppu.v.setWidth 16) x s).ppu.advanceV } := by
  rw [memWrite_ppuRegister (by decide) (by decide), ← ppuWrite_dataAddr]
  rfl

/-- `v` advances by 1 or 32 modulo 32768 (R288). -/
theorem Ppu.advanceV_toNat (u : Ppu) :
    u.advanceV.v.toNat = (u.v.toNat + if u.ctrl.getLsbD 2 then 32 else 1) % 32768 := by
  simp only [Ppu.advanceV, Ppu.increment, BitVec.toNat_add]
  split <;> rfl

theorem memWrite_dataPort_v (x : Byte) (s : State) :
    (memWrite 0x2007#16 x s).ppu.v.toNat = (s.ppu.v.toNat + if s.ppu.ctrl.getLsbD 2 then 32 else 1) % 32768 := by
  rw [memWrite_dataPort]
  dsimp only
  rw [Ppu.advanceV_toNat, ppuWrite_ppu]

/-- The PPU-bus address of the data port, modulo 0x4000. -/
theorem setWidth_v_mod (v : LoopyReg) : (v.setWidth 16).toNat % 0x4000 = v.toNat % 0x4000 := by simp

/-- Below the palette a data write is read back on the PPU bus, unless it is discarded by CHR-ROM (R286, decision D23). -/
theorem dataWrite_readBack {s : State} (x : Byte) (h : s.ppu.v.toNat % 0x4000 < 0x3F00)
    (hchr : s.ppu.v.toNat % 0x4000 < 0x2000 → ∀ c, s.cart = some c → c.chrBanks = 0#8) :
    ppuRead (memWrite 0x2007#16 x s).cart (memWrite 0x2007#16 x s).ppu (s.ppu.v.setWidth 16) = x := by
  rw [memWrite_dataPort]
  rw [← setWidth_v_mod] at h hchr
  by_cases hpat : (s.ppu.v.setWidth 16).toNat % 0x4000 < 0x2000
  · exact ppuRead_ppuWrite_pattern x hpat (hchr hpat)
  · exact (ppuRead_ppuWrite_nametable x (by omega) h (by omega) h).trans (if_pos rfl)

/-- In the palette a data write is read back masked (R102, R286). -/
theorem dataWrite_readBack_palette {s : State} (x : Byte) (h : 0x3F00 ≤ s.ppu.v.toNat % 0x4000) :
    ppuRead (memWrite 0x2007#16 x s).cart (memWrite 0x2007#16 x s).ppu (s.ppu.v.setWidth 16) =
      x &&& s.ppu.paletteMask := by
  rw [memWrite_dataPort]
  rw [← setWidth_v_mod] at h
  exact (ppuRead_ppuWrite_palette x h h).trans (if_pos rfl)

/-! ## The status byte -/

/-- The status byte as a number: the three flags are its bits 7, 6 and 5, the rest comes from the data buffer (R279). -/
theorem Ppu.statusByte_toNat (u : Ppu) :
    u.statusByte.toNat =
      u.verticalBlank.toNat * 128 + u.spriteZeroHit.toNat * 64 + u.spriteOverflow.toNat * 32 + u.dataBuf.toNat % 32 := by
  have hlow : (u.dataBuf &&& 0x1F#8).toNat = u.dataBuf.toNat % 2 ^ 5 := Nat.and_two_pow_sub_one_eq_mod u.dataBuf.toNat 5
  have hadd (n : Nat) : 2 ^ 5 * n ||| u.dataBuf.toNat % 2 ^ 5 = 2 ^ 5 * n + u.dataBuf.toNat % 2 ^ 5 :=
    (Nat.two_pow_add_eq_or_of_lt (Nat.mod_lt _ (by decide)) n).symm
  rw [Ppu.statusByte, BitVec.toNat_or, hlow]
  cases u.verticalBlank <;> cases u.spriteZeroHit <;> cases u.spriteOverflow
  · exact hadd 0
  · exact hadd 1
  · exact hadd 2
  · exact hadd 3
  · exact hadd 4
  · exact hadd 5
  · exact hadd 6
  · exact hadd 7

/-! ## The ports together -/

/-- Settles O16, port by port. -/
theorem dataStatusAndOamPorts : Obligations.DataStatusAndOamPorts := by
  intro s x
  have hread := memRead_dataPort s
  have hreg {a : Addr} (h : 0x2000 ≤ a.toNat ∧ a.toNat ≤ 0x3FFF) := memRead_ppuRegister h.1 h.2 s
  have hwreg {a : Addr} (h : 0x2000 ≤ a.toNat ∧ a.toNat ≤ 0x3FFF) := memWrite_ppuRegister h.1 h.2 x s
  refine ⟨fun h => ⟨?_, ?_⟩, fun h => ?_, ?_, ?_, memWrite_dataPort_v x s,
    ⟨?_, dataWrite_readBack x, dataWrite_readBack_palette x⟩, hwreg (by decide), hreg (by decide), ?_, ?_,
    hwreg (by decide)⟩
  · rw [hread, if_neg (by omega)]
  · rw [busByte, memRead_dataPort, if_neg (by dsimp only; omega)]
  · rw [hread, if_pos h]
  · rw [hread]
    rfl
  · rw [hread]
    exact Ppu.advanceV_toNat _
  · rw [memWrite_dataPort]
    rfl
  · rw [hreg (by decide)]
    exact s.ppu.statusByte_toNat
  · rw [hwreg (by decide)]
    exact ⟨Memory.read_write_same _ _ x, rfl, fun k hk => Memory.read_write_other _ x hk⟩

end Sys2Proof.Machine
end

section
/-! INC, DEC and the shifts and rotates (42_incdec.md R170, R171, 43_shift_rotate.md R180 to R183): each operation on naturals
with its flags, and the 24 forms on memory. -/

namespace Sys2Proof.Machine

/-! ## The operations -/

/-- The byte operation of the model behind each read-modify-write operation. -/
def ModifyOp.apply : ModifyOp → Byte → Byte → ModifyResult
  | .inc => incByte
  | .dec => decByte
  | .asl => aslByte
  | .lsr => lsrByte
  | .rol => rolByte
  | .ror => rorByte

/-- A bit entering at the bottom of a byte shifted left (R182). -/
theorem shiftLeft_or_bit0 (m : Byte) (c : Bool) :
    ((m <<< 1) ||| (if c then 0x01#8 else 0x00#8)).toNat = m.toNat * 2 % 256 + c.toNat := by
  have heven : m.toNat * 2 % 256 = 2 ^ 1 * (m.toNat % 128) := by omega
  have hbit : (if c then 0x01#8 else 0x00#8 : Byte).toNat = c.toNat := by cases c <;> rfl
  rw [BitVec.toNat_or, BitVec.toNat_shiftLeft, Nat.shiftLeft_eq, hbit, heven,
    Nat.two_pow_add_eq_or_of_lt (Bool.toNat_lt c)]

/-- A bit entering at the top of a byte shifted right (R183). -/
theorem shiftRight_or_bit7 (m : Byte) (c : Bool) :
    ((m >>> 1) ||| (if c then 0x80#8 else 0x00#8)).toNat = m.toNat / 2 + c.toNat * 128 := by
  have hlt : m.toNat / 2 < 2 ^ 7 := by omega
  have hbit : (if c then 0x80#8 else 0x00#8 : Byte).toNat = 2 ^ 7 * c.toNat := by cases c <;> rfl
  rw [BitVec.toNat_or, BitVec.toNat_ushiftRight, Nat.shiftRight_eq_div_pow, hbit, Nat.or_comm,
    ← Nat.two_pow_add_eq_or_of_lt hlt]
  omega

/-- The byte an operation gives, on naturals. -/
theorem ModifyOp.apply_value_toNat (op : ModifyOp) (m p : Byte) :
    (op.apply m p).value.toNat = op.value m (getFlag .c p) := by
  cases op with
  | inc => exact BitVec.toNat_add m 1#8
  | dec =>
    change (m - 1#8).toNat = (m.toNat + 255) % 256
    bv_omega
  | asl =>
    change (m <<< 1).toNat = m.toNat * 2 % 256
    rw [BitVec.toNat_shiftLeft, Nat.shiftLeft_eq]
  | lsr =>
    change (m >>> 1).toNat = m.toNat / 2
    rw [BitVec.toNat_ushiftRight, Nat.shiftRight_eq_div_pow]
  | rol => exact shiftLeft_or_bit0 m (getFlag .c p)
  | ror => exact shiftRight_or_bit7 m (getFlag .c p)

theorem ModifyOp.apply_value (op : ModifyOp) (m p : Byte) :
    (op.apply m p).value = BitVec.ofNat 8 (op.value m (getFlag .c p)) := by
  rw [← op.apply_value_toNat, BitVec.ofNat_toNat, BitVec.setWidth_eq]

/-- Every flag after an operation. -/
theorem ModifyOp.getFlag_apply (op : ModifyOp) (g : Flag) (m p : Byte) :
    getFlag g (op.apply m p).status =
      if g = .n then (op.apply m p).value.msb else if g = .z then decide ((op.apply m p).value = 0#8)
      else if g = .c then op.carry m (getFlag .c p) else getFlag g p := by
  have hmsb : m.msb = decide (128 ≤ m.toNat) := BitVec.msb_eq_decide m
  have hlsb : m.getLsbD 0 = decide (m.toNat % 2 = 1) := by
    rw [BitVec.getLsbD, Nat.testBit_zero]
  cases op with
  | inc | dec =>
    simp only [ModifyOp.apply, incByte, decByte, ModifyOp.carry, getFlag_setZN]
    cases g <;> rfl
  | asl | lsr | rol | ror =>
    simp only [ModifyOp.apply, aslByte, lsrByte, rolByte, rorByte, ModifyOp.carry, getFlag_setZN, getFlag_setFlag, hmsb, hlsb]

/-! ## The forms -/

/-- What a read-modify-write instruction leaves: one read, one write, the status, the cycles (R73). -/
theorem modifyingInstr_eq (o : Operand) (base : Nat) (f : Byte → Byte → ModifyResult) (s : State) :
    modifyingInstr o base f s =
      .next
        (((memWrite (resolve o s).ea (f (busByte (resolve o s).ea s) s.cpu.p).value
          (memRead (resolve o s).ea s).2).setP (f (busByte (resolve o s).ea s) s.cpu.p).status).cost base) := by
  simp [modifyingInstr, busByte]

/-- Each form applies its operation, in the cycles of its addressing mode (R470). -/
theorem exec_modifyForm {i : Instr} {op : ModifyOp} {o : Operand} {base : Nat} (h : modifyForm i = some (op, o, base))
    (s : State) : exec i s = modifyingInstr o base op.apply s := by
  cases i <;> cases h <;> rfl

theorem regsKept_setP (c : Cpu) (p : Byte) (debt : Nat) : regsKept [.p] c { c with p := p, debt := debt } := by
  intro r hr
  cases r with
  | p => simp at hr
  | a | x | y | sp | pc => rfl

/-- The registers after a read-modify-write instruction: `P` and the cycles owed. -/
theorem modified_cpu (a : Addr) (v p : Byte) (n : Nat) (s : State) :
    (((memWrite a v (memRead a s).2).setP p).cost n).cpu = { s.cpu with p := p, debt := s.cpu.debt + (n - 1) } := by
  simp only [State.cost, State.addDebt, State.setP, memWrite_cpu, memRead_cpu]

/-- Settles O24: every form is one read and one write at its address. -/
theorem modifyMemoryInstructions : Obligations.ModifyMemoryInstructions := by
  intro i op o base s h
  have hexec := exec_modifyForm h s
  rw [modifyingInstr_eq] at hexec
  dsimp only
  rw [← op.apply_value]
  generalize (resolve o s).ea = ea at hexec ⊢
  have hflag (g : Flag) := op.getFlag_apply g (busByte ea s) s.cpu.p
  generalize op.apply (busByte ea s) s.cpu.p = r at hexec hflag ⊢
  have hcpu := modified_cpu ea r.value r.status base s
  have hframe : sameOutsideCpu (memWrite ea r.value (memRead ea s).2)
      (((memWrite ea r.value (memRead ea s).2).setP r.status).cost base) := rfl
  have hback (hram : ea.toNat ≤ 0x1FFF) : busByte ea (memWrite ea r.value (memRead ea s).2) = r.value := by
    rw [memWrite_ram hram, busByte_ramWrite, if_pos ⟨hram, rfl⟩]
  refine ⟨_, hexec, hframe, ?_⟩
  rw [hcpu]
  refine ⟨hflag .z, hflag .n, hflag .c, fun g hg => ?_, regsKept_setP _ _ _, rfl, rfl,
    fun hram => (busByte_sameOutsideCpu hframe ea).trans (hback hram),
    memoryBut_sameOutsideCpu (readThenWrite_memoryBut ea r.value s) hframe⟩
  simp only [List.mem_cons, List.not_mem_nil, or_false, not_or] at hg
  obtain ⟨hc, hz, hn⟩ := hg
  rw [hflag, if_neg hn, if_neg hz, if_neg hc]

end Sys2Proof.Machine
end

section
/-! Decoding and encoding (30_encoding.md R120 to R122, R139).  Both are one relation read in two directions: an instruction
completes the format its opcode byte selects with its operand bytes. -/

namespace Sys2Proof

/-- The instruction a format gives with its operand bytes, in ascending address order (R120). -/
inductive Format.Completes : Format → Instr → List Byte → Prop
  | f1 (i : Instr) : Completes (.f1 i) i []
  | f2 (mk : Byte → Instr) (d : Byte) : Completes (.f2 mk) (mk d) [d]
  | f3 (mk : Addr → Instr) (a : Addr) : Completes (.f3 mk) (mk a) [loByte a, hiByte a]

/-! ## The decoder -/

/-- Decoding an opcode byte, the operand bytes of its format and whatever follows. -/
theorem decode_of_completes {op : Byte} {i : Instr} {operands : List Byte} (h : (opcodeFormat op).Completes i operands)
    (rest : List Byte) : decode (op :: operands ++ rest) = .ok i rest := by
  generalize hf : opcodeFormat op = f at h
  cases h with
  | f1 => exact decode_f1 hf rest
  | f2 _ d => exact decode_f2 hf d rest
  | f3 _ a => exact (decode_f3 hf _ _ rest).trans (by rw [addrOf_loByte_hiByte])

/-- Bytes that decode are an opcode byte, the operand bytes of its format, and the rest. -/
theorem completes_of_decode {bs rest : List Byte} {i : Instr} (h : decode bs = .ok i rest) :
    ∃ op operands, bs = op :: operands ++ rest ∧ (opcodeFormat op).Completes i operands := by
  match bs with
  | [] => cases h
  | op :: tail =>
    refine ⟨op, ?_⟩
    cases hf : opcodeFormat op with
    | f1 j =>
      obtain ⟨rfl, rfl⟩ := DecodeResult.ok.inj ((decode_f1 hf tail).symm.trans h)
      exact ⟨[], rfl, .f1 j⟩
    | f2 mk =>
      match tail with
      | [] => simp [decode, hf] at h
      | d :: tail =>
        obtain ⟨rfl, rfl⟩ := DecodeResult.ok.inj ((decode_f2 hf d tail).symm.trans h)
        exact ⟨[d], rfl, .f2 mk d⟩
    | f3 mk =>
      match tail with
      | [] => simp [decode, hf] at h
      | [_] => simp [decode, hf] at h
      | lo :: hi :: tail =>
        obtain ⟨rfl, rfl⟩ := DecodeResult.ok.inj ((decode_f3 hf lo hi tail).symm.trans h)
        exact ⟨[lo, hi], rfl, by simpa using Format.Completes.f3 mk (addrOf lo hi)⟩

/-- Two bytes after the opcode byte are enough for every format (R122). -/
theorem exists_decode_eq_ok (op b1 b2 : Byte) : ∃ i rest, decode [op, b1, b2] = .ok i rest := by
  cases hf : opcodeFormat op with
  | f1 i => exact ⟨i, [b1, b2], decode_f1 hf _⟩
  | f2 mk => exact ⟨mk b1, [b2], decode_f2 hf _ _⟩
  | f3 mk => exact ⟨mk (addrOf b1 b2), [], decode_f3 hf _ _ _⟩

/-! ## The encoder -/

/-- The encoding of a well-formed instruction is an opcode byte with the operand bytes of the format it selects: the converse
of `opcodeFormat_agrees`, instruction by instruction. -/
theorem encode_completes {i : Instr} (h : i.wellFormed = true) :
    ∃ op operands, encode i = op :: operands ∧ (opcodeFormat op).Completes i operands := by
  cases i with
  | und op => exact ⟨op, [], rfl, opcodeFormat_undefined h ▸ .f1 _⟩
  | _ => exact ⟨_, _, rfl, by constructor⟩

/-- What completes a format that agrees with an opcode byte is well-formed and encodes to that byte and its operand bytes. -/
theorem Format.Completes.encode_eq {f : Format} {op : Byte} {i : Instr} {operands : List Byte}
    (h : f.Completes i operands) (hagrees : f.agrees op) : i.wellFormed = true ∧ encode i = op :: operands := by
  cases h with
  | f1 => exact hagrees
  | f2 _ d => exact hagrees d
  | f3 _ a => exact hagrees a

/-! ## The two directions together -/

/-- Settles O1: the operand bytes of an encoding complete the format of its opcode byte. -/
theorem decodeEncodeRoundTrip : Obligations.DecodeEncodeRoundTrip := by
  intro i rest hwf
  obtain ⟨op, operands, he, hc⟩ := encode_completes hwf
  rw [he]
  exact decode_of_completes hc rest

/-- Settles O2: the bytes decoded complete the format of their opcode byte, which agrees with the encoder. -/
theorem decodedBytesAreTheEncoding : Obligations.DecodedBytesAreTheEncoding := by
  intro bs rest i h
  obtain ⟨op, operands, rfl, hc⟩ := completes_of_decode h
  obtain ⟨hwf, he⟩ := hc.encode_eq (opcodeFormat_agrees op)
  exact ⟨by rw [he], hwf⟩

/-- Settles O4: an undefined byte selects `und`, and an `und` that is decoded is well-formed, so its byte is undefined. -/
theorem everyOpcodeByteDecodes : Obligations.EveryOpcodeByteDecodes := by
  refine ⟨rfl, fun op b1 b2 => ?_⟩
  obtain ⟨i, rest, h⟩ := exists_decode_eq_ok op b1 b2
  obtain ⟨-, hwf⟩ := decodedBytesAreTheEncoding _ _ _ h
  refine ⟨i, rest, h, hwf, fun hundef => ?_, ?_⟩
  · have hund := decode_f1 (opcodeFormat_undefined hundef) [b1, b2]
    exact (DecodeResult.ok.inj (h.symm.trans hund)).1
  · rintro rfl
    exact hwf

/-- Settles O3: each word has the operand bytes of the format that R121 gives its opcode byte. -/
theorem sampleWordsDecode : Obligations.SampleWordsDecode :=
  ⟨decode_f2 rfl _ _, decode_f3 rfl _ _ _, decode_f2 rfl _ _, decode_f1 rfl _, decode_f3 rfl _ _ _, decode_f1 rfl _,
    decode_f2 rfl _ _, decode_f2 rfl _ _, decode_f2 rfl _ _, decode_f2 rfl _ _, decode_f1 rfl _, decode_f3 rfl _ _ _,
    decode_f1 rfl _, decode_f1 rfl _, decode_f1 rfl _⟩

end Sys2Proof
end

section
/-! The operand forms (30_encoding.md R127 to R135): indexing modulo 65536 with its page-cross indicator, and the pointers of
page 0. -/

namespace Sys2Proof.Machine

/-- Two addresses are in different pages when their quotients by 256 differ (R132). -/
theorem pagesDiffer_iff (a b : Addr) : pagesDiffer a b = true ↔ a.toNat / 256 ≠ b.toNat / 256 := by
  have hpage (c : Addr) : (hiByte c).toNat = c.toNat / 256 := by
    have := c.isLt
    simp only [hiByte, BitVec.extractLsb'_toNat, Nat.shiftRight_eq_div_pow]
    omega
  rw [pagesDiffer, bne_iff_ne, ne_eq, ← BitVec.toNat_inj, hpage, hpage]

theorem indexed_ea_toNat (base : Addr) (index : Byte) (s : State) :
    (indexed base index s).ea.toNat = (base.toNat + index.toNat) % 65536 := by
  simp [indexed]

theorem indexed_crossed_iff (base : Addr) (index : Byte) (s : State) :
    (indexed base index s).crossed = true ↔ (base.toNat + index.toNat) % 65536 / 256 ≠ base.toNat / 256 := by
  rw [← indexed_ea_toNat base index s]
  exact pagesDiffer_iff _ base

/-- A page-0 address reads its RAM byte. -/
theorem busByte_page0 (n : Nat) (s : State) :
    busByte (BitVec.ofNat 16 (n % 256)) s = Memory.read s.ram (n % 256) := by
  have hn : (BitVec.ofNat 16 (n % 256)).toNat = n % 256 := by
    rw [BitVec.toNat_ofNat]
    omega
  rw [busByte_ram (by omega), hn, Nat.mod_eq_of_lt (by omega)]

/-- The word at a page-0 pointer has both its bytes from page 0 (R133, R134, D43). -/
theorem readPointer_toNat {p : Byte} {n : Nat} (hp : p.toNat = n % 256) (s : State) :
    (readPointer p s).1.toNat =
      (busByte (BitVec.ofNat 16 (n % 256)) s).toNat + 256 * (busByte (BitVec.ofNat 16 ((n + 1) % 256)) s).toNat := by
  have hnext : (p + 1#8).toNat = (n + 1) % 256 := by
    rw [BitVec.toNat_add, hp]
    exact Nat.mod_add_mod n 256 1
  rw [busByte_page0, busByte_page0, readPointer_eq, addrOf_toNat, hp, hnext, Nat.add_comm, Nat.mul_comm]

/-- Settles O18, form by form. -/
theorem addressingModes : Obligations.AddressingModes := by
  intro s d a x y pointer
  have hsum (i : Byte) : (d + i).toNat = (d.toNat + i.toNat) % 256 := BitVec.toNat_add d i
  have hzp (i : Byte) : (zeroPage (d + i)).toNat = (d.toNat + i.toNat) % 256 := (zeroPage_toNat _).trans (hsum i)
  have hindX : (readPointer (d + s.cpu.x) s).1.toNat = pointer (d.toNat + x) := readPointer_toNat (hsum s.cpu.x) s
  have hindY : (readPointer d s).1.toNat = pointer d.toNat := readPointer_toNat (Nat.mod_eq_of_lt d.isLt).symm s
  rw [← hindY]
  exact ⟨rfl, rfl,
    zeroPage_toNat d, rfl,
    hzp s.cpu.x, rfl,
    hzp s.cpu.y, rfl,
    rfl, rfl,
    indexed_ea_toNat a _ s, indexed_crossed_iff a _ s,
    indexed_ea_toNat a _ s, indexed_crossed_iff a _ s,
    hindX, rfl,
    indexed_ea_toNat _ _ _, indexed_crossed_iff _ _ _⟩

end Sys2Proof.Machine
end

section
/-! The loads and the stores (40_load_store.md R150 to R155): each of the 18 loads puts its operand in a register with Z and
N, each of the 13 stores is one bus write of a register. -/

namespace Sys2Proof.Machine

/-! ## Registers as bytes -/

@[simp] theorem Cpu.byteReg_a (c : Cpu) : c.byteReg .a = c.a := by simp [Cpu.byteReg, Cpu.reg]
@[simp] theorem Cpu.byteReg_x (c : Cpu) : c.byteReg .x = c.x := by simp [Cpu.byteReg, Cpu.reg]
@[simp] theorem Cpu.byteReg_y (c : Cpu) : c.byteReg .y = c.y := by simp [Cpu.byteReg, Cpu.reg]

theorem regsKept_setXP (c : Cpu) (x p : Byte) (debt : Nat) :
    regsKept [.x, .p] c { c with x := x, p := p, debt := debt } := by
  intro r hr
  cases r with
  | x => simp at hr
  | p => simp at hr
  | a | y | sp | pc => rfl

theorem regsKept_setYP (c : Cpu) (y p : Byte) (debt : Nat) :
    regsKept [.y, .p] c { c with y := y, p := p, debt := debt } := by
  intro r hr
  cases r with
  | y => simp at hr
  | p => simp at hr
  | a | x | sp | pc => rfl

/-! ## Loading a register -/

/-- The three updates that load a register with a byte and set Z and N from it (R150 to R152). -/
inductive LoadsReg : RegName → (Byte → State → State) → Prop
  | a : LoadsReg .a loadA
  | x : LoadsReg .x loadX
  | y : LoadsReg .y loadY

namespace LoadsReg

variable {r : RegName} {f : Byte → State → State} (h : LoadsReg r f) (m : Byte) (n : Nat) (s : State)

include h

theorem byteReg : ((f m s).cost n).cpu.byteReg r = m := by
  cases h with
  | a => exact Cpu.byteReg_a _
  | x => exact Cpu.byteReg_x _
  | y => exact Cpu.byteReg_y _

theorem flagsZN : Machine.flagsZN m s.cpu.p ((f m s).cost n).cpu.p := by
  cases h <;> exact flagsZN_setZN m s.cpu.p

theorem regsKept : Machine.regsKept [r, .p] s.cpu ((f m s).cost n).cpu := by
  cases h with
  | a => exact regsKept_setAP s.cpu m _ _
  | x => exact regsKept_setXP s.cpu m _ _
  | y => exact regsKept_setYP s.cpu m _ _

theorem debt : ((f m s).cost n).cpu.debt = s.cpu.debt + (n - 1) := by
  cases h <;> rfl

theorem cycles : ((f m s).cost n).cpu.cycles = s.cpu.cycles := by
  cases h <;> rfl

theorem sameOutsideCpu : Machine.sameOutsideCpu s ((f m s).cost n) := by
  cases h <;> rfl

end LoadsReg

/-! ## The forms -/

/-- Each load form loads its register with its operand, in the cycles of its addressing mode (R470). -/
theorem exec_loadForm {i : Instr} {r : RegName} {o : Operand} {base : Nat} (h : loadForm i = some (r, o, base))
    (s : State) : ∃ f, LoadsReg r f ∧ exec i s = readingInstr o base f s := by
  cases i <;> cases h <;> exact ⟨_, by constructor, rfl⟩

/-- Each store form stores its register, in the cycles of its addressing mode (R470). -/
theorem exec_storeForm {i : Instr} {r : RegName} {o : Operand} {base : Nat} (h : storeForm i = some (r, o, base))
    (s : State) : exec i s = storingInstr o base (s.cpu.byteReg r) s := by
  cases i <;> cases h <;> simp only [Cpu.byteReg_a, Cpu.byteReg_x, Cpu.byteReg_y] <;> rfl

/-- A byte written to RAM is read back (R78). -/
theorem busByte_memWrite_ram {a : Addr} (h : a.toNat ≤ 0x1FFF) (v : Byte) (s : State) :
    busByte a (memWrite a v s) = v := by
  rw [memWrite_ram h, busByte_ramWrite, if_pos ⟨h, rfl⟩]

/-- Settles O20: every form reads its operand, which leaves the CPU alone, and loads one register with it. -/
theorem loadInstructions : Obligations.LoadInstructions := by
  intro i r o base s h
  obtain ⟨f, hf, hexec⟩ := exec_loadForm h s
  rw [readingInstr_eq] at hexec
  have hframe := hf.sameOutsideCpu (operandByte o s) (base + crossCycle o s) (operandAfter o s)
  rw [← operandAfter_cpu o s]
  exact ⟨_, hexec, hf.byteReg _ _ _, hf.flagsZN _ _ _, hf.regsKept _ _ _, hf.debt _ _ _, hf.cycles _ _ _, hframe,
    operandAfter_memoryReadOnly hframe⟩

/-- Settles O21: every form is one bus write of its register at its address. -/
theorem storeInstructions : Obligations.StoreInstructions := by
  intro i r o base s h
  have hexec := exec_storeForm h s
  rw [storingInstr_eq] at hexec
  have hframe : sameOutsideCpu (memWrite (resolve o s).ea (s.cpu.byteReg r) s)
      ((memWrite (resolve o s).ea (s.cpu.byteReg r) s).cost base) := rfl
  refine ⟨_, hexec, ?_, fun hram => ?_, memoryBut_sameOutsideCpu (memWrite_memoryBut _ _ s) hframe⟩
  · rw [State.cost, State.addDebt, memWrite_cpu]
  · rw [busByte_cost, busByte_memWrite_ram hram]

end Sys2Proof.Machine
end

section
/-! The transfers (41_transfer.md R160 to R165): TAX, TAY, TXA, TYA and TSX load a register, as the loads do, with the byte of
another; TXS copies `X` to the stack pointer and leaves the status alone. -/

namespace Sys2Proof.Machine

@[simp] theorem Cpu.byteReg_sp (c : Cpu) : c.byteReg .sp = c.sp := by simp [Cpu.byteReg, Cpu.reg]

/-- Each of the five transfers that set Z and N loads its destination with its source, in 2 cycles (R160 to R164, R470). -/
theorem exec_transferForm {i : Instr} {src dst : RegName} (h : transferForm i = some (src, dst)) (s : State) :
    ∃ f, LoadsReg dst f ∧ exec i s = .next ((f (s.cpu.byteReg src) s).cost 2) := by
  cases i <;> cases h
  case tax => exact ⟨loadX, .x, by rw [Cpu.byteReg_a]; rfl⟩
  case tay => exact ⟨loadY, .y, by rw [Cpu.byteReg_a]; rfl⟩
  case txa => exact ⟨loadA, .a, by rw [Cpu.byteReg_x]; rfl⟩
  case tya => exact ⟨loadA, .a, by rw [Cpu.byteReg_y]; rfl⟩
  case tsx => exact ⟨loadX, .x, by rw [Cpu.byteReg_sp]; rfl⟩

/-- TXS copies `X` to the stack pointer in 2 cycles; no flag is set (R165, R470). -/
theorem exec_txs (s : State) : exec .txs s = .next ((s.setSp s.cpu.x).cost 2) := rfl

/-- Settles O22: five transfers are loads of one register with another; TXS only writes the stack pointer. -/
theorem transferInstructions : Obligations.TransferInstructions := by
  refine ⟨⟨rfl, rfl, rfl, rfl, rfl, rfl⟩, fun i src dst s h => ?_, fun s => ?_⟩
  · obtain ⟨f, hf, hexec⟩ := exec_transferForm h s
    have hframe := hf.sameOutsideCpu (s.cpu.byteReg src) 2 s
    exact ⟨_, hexec, hf.byteReg _ _ _, hf.flagsZN _ _ _, hf.regsKept _ _ _, hf.debt _ _ _, hf.cycles _ _ _, hframe,
      busByte_sameOutsideCpu hframe⟩
  · have hframe : sameOutsideCpu s ((s.setSp s.cpu.x).cost 2) := rfl
    exact ⟨_, exec_txs s, rfl, hframe, busByte_sameOutsideCpu hframe⟩

end Sys2Proof.Machine
end

section
/-! INX, INY, DEX and DEY (42_incdec.md R172 to R175): each loads an index register, as the loads do, with that register's own
byte plus 1, or plus 255, which is the same as minus 1 modulo 256. -/

namespace Sys2Proof.Machine

/-- A decrement modulo 256 is the addition of 255 (R174, R175). -/
theorem byte_sub_one (m : Byte) : m - 1#8 = m + 0xFF#8 := BitVec.sub_eq_add_neg m 1#8

/-- Each of the four instructions loads its register with its own byte plus the step, in 2 cycles (R172 to R175, R470). -/
theorem exec_indexStepForm {i : Instr} {r : RegName} {k : Byte} (h : indexStepForm i = some (r, k)) (s : State) :
    ∃ f, LoadsReg r f ∧ exec i s = .next ((f (s.cpu.byteReg r + k) s).cost 2) := by
  cases i <;> cases h
  case inx => exact ⟨loadX, .x, by rw [Cpu.byteReg_x]; rfl⟩
  case iny => exact ⟨loadY, .y, by rw [Cpu.byteReg_y]; rfl⟩
  case dex => exact ⟨loadX, .x, by rw [Cpu.byteReg_x, ← byte_sub_one]; rfl⟩
  case dey => exact ⟨loadY, .y, by rw [Cpu.byteReg_y, ← byte_sub_one]; rfl⟩

/-- Settles O23: all four are loads of a register with its own stepped byte. -/
theorem indexStepInstructions : Obligations.IndexStepInstructions := by
  refine ⟨⟨rfl, rfl, rfl, rfl⟩, fun i r k s h => ?_⟩
  obtain ⟨f, hf, hexec⟩ := exec_indexStepForm h s
  have hframe := hf.sameOutsideCpu (s.cpu.byteReg r + k) 2 s
  exact ⟨_, hexec, hf.byteReg _ _ _, hf.flagsZN _ _ _, hf.regsKept _ _ _, hf.debt _ _ _, hf.cycles _ _ _, hframe,
    busByte_sameOutsideCpu hframe⟩

end Sys2Proof.Machine
end

section
/-! The accumulator forms of ASL, LSR, ROL and ROR (43_shift_rotate.md R180 to R183): the operation of the memory forms, applied
to `A`, with no data access. -/

namespace Sys2Proof.Machine

/-- Each accumulator form applies its operation to `A`, in 2 cycles (R180 to R183, R470). -/
theorem exec_accumulatorForm {i : Instr} {op : ModifyOp} (h : accumulatorForm i = some op) (s : State) :
    exec i s = modifyAccumulator 2 op.apply s := by
  cases i <;> cases h <;> rfl

/-- A shift or rotate of `A` touches the CPU registers only: `A`, `P` and the cycles owed. -/
theorem modifyAccumulator_eq (base : Nat) (f : Byte → Byte → ModifyResult) (s : State) :
    modifyAccumulator base f s =
      .next { s with
        cpu := { s.cpu with
          a := (f s.cpu.a s.cpu.p).value
          p := (f s.cpu.a s.cpu.p).status
          debt := s.cpu.debt + (base - 1) } } := rfl

/-- An operation writes no flag but C, Z and N (R170, R171, R180 to R183). -/
theorem ModifyOp.apply_flagsKept (op : ModifyOp) (m p : Byte) : flagsKept [.c, .z, .n] p (op.apply m p).status := by
  intro g hg
  simp only [List.mem_cons, List.not_mem_nil, or_false, not_or] at hg
  obtain ⟨hc, hz, hn⟩ := hg
  rw [op.getFlag_apply, if_neg hn, if_neg hz, if_neg hc]

/-- Settles O25: every form is its operation on `A`, whose value and flags are those of the memory forms. -/
theorem accumulatorShifts : Obligations.AccumulatorShifts := by
  intro i op s h
  have hexec := exec_accumulatorForm h s
  rw [modifyAccumulator_eq] at hexec
  have hflag (g : Flag) := op.getFlag_apply g s.cpu.a s.cpu.p
  exact ⟨_, hexec, op.apply_value_toNat _ _, hflag .z, hflag .n, hflag .c, op.apply_flagsKept _ _,
    regsKept_setAP _ _ _ _, rfl, rfl, rfl, busByte_sameOutsideCpu rfl⟩

end Sys2Proof.Machine
end

section
/-! AND, ORA, EOR and BIT (44_logical.md R190 to R193): each of the 24 logical forms loads `A`, as the loads do, with the
bitwise operation of `A` and the operand; the two forms of BIT write Z, N and V and nothing else. -/

namespace Sys2Proof.Machine

/-! ## AND, ORA and EOR -/

/-- Each form loads `A` with its operation of `A` and the operand, in the cycles of its addressing mode (R470). -/
theorem exec_logicForm {i : Instr} {op : LogicOp} {o : Operand} {base : Nat} (h : logicForm i = some (op, o, base))
    (s : State) : exec i s = readingInstr o base (fun m t => loadA (op.value t.cpu.a m) t) s := by
  cases i <;> cases h <;> rfl

/-- Settles O26: every form is a load of `A` with the result of its operation. -/
theorem logicInstructions : Obligations.LogicInstructions := by
  intro i op o base s h
  have hexec := exec_logicForm h s
  rw [readingInstr_eq] at hexec
  have hload := LoadsReg.a
  have hframe := hload.sameOutsideCpu (op.value (operandAfter o s).cpu.a (operandByte o s)) (base + crossCycle o s)
    (operandAfter o s)
  rw [← operandAfter_cpu o s]
  exact ⟨_, hexec, rfl, hload.flagsZN _ _ _, hload.regsKept _ _ _, hload.debt _ _ _, hload.cycles _ _ _, hframe,
    operandAfter_memoryReadOnly hframe⟩

/-! ## BIT -/

/-- Both forms test their operand, in the cycles of their addressing mode (R193, R470). -/
theorem exec_bitForm {i : Instr} {o : Operand} {base : Nat} (h : bitForm i = some (o, base)) (s : State) :
    exec i s = readingInstr o base bitA s := by
  cases i <;> cases h <;> rfl

/-- Neither form of BIT is indexed, so neither owes a cycle for a page cross (R138). -/
theorem crossCycle_bitForm {i : Instr} {o : Operand} {base : Nat} (h : bitForm i = some (o, base)) (s : State) :
    crossCycle o s = 0 := by
  cases i <;> cases h <;> rfl

/-- BIT writes no flag but Z, N and V (R193). -/
theorem bitFlags_kept (a m p : Byte) : flagsKept [.z, .n, .v] p (bitFlags a m p) := by
  intro f hf
  simp only [List.mem_cons, List.not_mem_nil, or_false, not_or] at hf
  obtain ⟨hz, hn, hv⟩ := hf
  rw [getFlag_bitFlags, if_neg hv, if_neg hn, if_neg hz]

/-- The registers after a bit test: `P` and the cycles owed. -/
theorem bitA_cost_cpu (m : Byte) (n : Nat) {s t : State} (h : t.cpu = s.cpu) :
    ((bitA m t).cost n).cpu = { s.cpu with p := bitFlags s.cpu.a m s.cpu.p, debt := s.cpu.debt + (n - 1) } := by
  rw [← h]
  rfl

/-- Settles O27: both forms are one read of the operand and one write of the status. -/
theorem bitInstructions : Obligations.BitInstructions := by
  refine ⟨fun d => ⟨rfl, rfl⟩, fun a => ⟨rfl, rfl⟩, fun i o base s h => ?_⟩
  have hexec := exec_bitForm h s
  rw [readingInstr_eq, crossCycle_bitForm h, Nat.add_zero] at hexec
  have hcpu := bitA_cost_cpu (operandByte o s) base (operandAfter_cpu o s)
  have hframe : sameOutsideCpu (operandAfter o s) ((bitA (operandByte o s) (operandAfter o s)).cost base) := rfl
  have hflag (f : Flag) := getFlag_bitFlags f s.cpu.a (operandByte o s) s.cpu.p
  have hbit7 : (operandByte o s).msb = (operandByte o s).getLsbD 7 := BitVec.msb_eq_getLsbD_last _
  refine ⟨_, hexec, ?_⟩
  rw [hcpu]
  exact ⟨hflag .z, (hflag .n).trans hbit7, hflag .v, bitFlags_kept _ _ _,
    regsKept_setP _ _ _, rfl, rfl, hframe, operandAfter_memoryReadOnly hframe⟩

end Sys2Proof.Machine
end

section
/-! CMP, CPX and CPY (45_compare.md R200 to R203): each of the 14 forms writes the flags of an unsigned comparison of its
register with its operand, and nothing else. -/

namespace Sys2Proof.Machine

/-! ## The flags of a comparison -/

/-- Bit 7 of a difference of bytes, as naturals modulo 256 (R203). -/
theorem byte_sub_msb (r m : Byte) : (r - m).msb = decide (128 ≤ (r.toNat + 256 - m.toNat) % 256) := by
  have hm := m.isLt
  rw [BitVec.msb_eq_decide, BitVec.toNat_sub, decide_eq_decide]
  omega

/-- A comparison writes no flag but C, Z and N (R203). -/
theorem compareFlags_kept (r m p : Byte) : flagsKept [.c, .z, .n] p (compareFlags r m p) := by
  intro f hf
  simp only [List.mem_cons, List.not_mem_nil, or_false, not_or] at hf
  obtain ⟨hc, hz, hn⟩ := hf
  rw [getFlag_compareFlags, if_neg hn, if_neg hz, if_neg hc]

/-! ## The forms -/

/-- The register update of CMP, CPX and CPY, in the register compared. -/
def compareReg (r : RegName) (m : Byte) (s : State) : State := s.setP (compareFlags (s.cpu.byteReg r) m s.cpu.p)

theorem compareReg_a : compareReg .a = compareA := by
  funext m s
  rw [compareReg, Cpu.byteReg_a, compareA]

theorem compareReg_x : compareReg .x = compareX := by
  funext m s
  rw [compareReg, Cpu.byteReg_x, compareX]

theorem compareReg_y : compareReg .y = compareY := by
  funext m s
  rw [compareReg, Cpu.byteReg_y, compareY]

/-- Each form compares its register with its operand, in the cycles of its addressing mode (R470). -/
theorem exec_compareForm {i : Instr} {r : RegName} {o : Operand} {base : Nat} (h : compareForm i = some (r, o, base))
    (s : State) : exec i s = readingInstr o base (compareReg r) s := by
  cases i <;> cases h <;> simp only [compareReg_a, compareReg_x, compareReg_y] <;> rfl

/-- The register of a compare form is 8 bits wide. -/
theorem byteReg_toNat_of_compareForm {i : Instr} {r : RegName} {o : Operand} {base : Nat}
    (h : compareForm i = some (r, o, base)) (c : Cpu) : (c.byteReg r).toNat = c.reg r := by
  have hr : r = .a ∨ r = .x ∨ r = .y := by
    cases i <;> cases h <;> simp
  obtain rfl | rfl | rfl := hr
  · rw [Cpu.byteReg_a, Cpu.reg]
  · rw [Cpu.byteReg_x, Cpu.reg]
  · rw [Cpu.byteReg_y, Cpu.reg]

/-- The registers after a comparison: `P` and the cycles owed. -/
theorem compareReg_cost_cpu (r : RegName) (m : Byte) (n : Nat) {s t : State} (h : t.cpu = s.cpu) :
    ((compareReg r m t).cost n).cpu =
      { s.cpu with p := compareFlags (s.cpu.byteReg r) m s.cpu.p, debt := s.cpu.debt + (n - 1) } := by
  rw [← h]
  rfl

/-- Settles O28: every form is one read of the operand and one write of the status. -/
theorem compareInstructions : Obligations.CompareInstructions := by
  intro i r o base s h
  have hexec := exec_compareForm h s
  rw [readingInstr_eq] at hexec
  have hcpu := compareReg_cost_cpu r (operandByte o s) (base + crossCycle o s) (operandAfter_cpu o s)
  have hframe : sameOutsideCpu (operandAfter o s)
      ((compareReg r (operandByte o s) (operandAfter o s)).cost (base + crossCycle o s)) := rfl
  have hflag (f : Flag) := getFlag_compareFlags f (s.cpu.byteReg r) (operandByte o s) s.cpu.p
  have heq : decide (s.cpu.byteReg r = operandByte o s) = decide ((s.cpu.byteReg r).toNat = (operandByte o s).toNat) :=
    decide_eq_decide.mpr BitVec.toNat_eq
  have hsub := byte_sub_msb (s.cpu.byteReg r) (operandByte o s)
  dsimp only
  rw [← byteReg_toNat_of_compareForm h]
  refine ⟨_, hexec, ?_⟩
  rw [hcpu]
  exact ⟨hflag .c, (hflag .z).trans heq, (hflag .n).trans hsub, compareFlags_kept _ _ _,
    regsKept_setP _ _ _, rfl, rfl, hframe, operandAfter_memoryReadOnly hframe⟩

end Sys2Proof.Machine
end

section
/-! The equivalent readings of overflow in `AddWithCarry` (46_adc_sbc.md R212). -/

namespace Sys2Proof.Machine

theorem byte_and_signBit_ne_zero_iff (x : Byte) : x &&& 0x80#8 ≠ 0#8 ↔ x.msb = true := by
  rw [show 0x80#8 = BitVec.twoPow 8 7 from rfl, BitVec.and_twoPow, BitVec.msb_eq_getLsbD_last]
  cases x.getLsbD 7 <;> decide

/-- R212's bit expression: the result differs in sign from both operands. -/
theorem msb_xor_and_xor_iff (a m r : Byte) :
    ((a ^^^ r) &&& (m ^^^ r)).msb = true ↔ a.msb = m.msb ∧ r.msb ≠ a.msb := by
  rw [BitVec.msb_and, BitVec.msb_xor, BitVec.msb_xor]
  cases a.msb <;> cases m.msb <;> cases r.msb <;> decide

/-- R212's equivalent expression: the operands agree in sign and the result differs from the first. -/
theorem msb_not_xor_and_xor_iff (a m r : Byte) :
    (~~~(a ^^^ m) &&& (a ^^^ r)).msb = true ↔ a.msb = m.msb ∧ r.msb ≠ a.msb := by
  rw [BitVec.msb_and, BitVec.msb_not, BitVec.msb_xor, BitVec.msb_xor]
  cases a.msb <;> cases m.msb <;> cases r.msb <;> decide

theorem addWithCarry_overflow_iff_signs (a m : Byte) (c : Bool) :
    (addWithCarry a m c).overflow = true ↔ a.msb = m.msb ∧ (addWithCarry a m c).value.msb ≠ a.msb :=
  msb_xor_and_xor_iff a m (addWithCarry a m c).value

/-- Settles O19: both bit expressions read off bit 7 the signs of the operands and of the result. -/
theorem addWithCarryMeaning : Obligations.AddWithCarryMeaning := by
  intro a m c
  have hsigns := addWithCarry_overflow_iff_signs a m c
  refine ⟨addWithCarry_value_toNat a m c, ?_, ?_, hsigns, ?_, ?_⟩
  · rw [addWithCarry_carry, decide_eq_true_iff, Nat.succ_le_iff]
  · exact (byte_and_signBit_ne_zero_iff _).symm
  · rw [addWithCarry_overflow, decide_eq_true_iff]
  · rw [hsigns, byte_and_signBit_ne_zero_iff, msb_not_xor_and_xor_iff]

end Sys2Proof.Machine
end

section
/-! The branches, the jumps, the flag instructions, NOP and the undefined opcodes (47_branch.md R220 to R229,
49_jump_system_flags.md R245, R246, R251 to R262): instructions that change CPU registers and at most the log. -/

namespace Sys2Proof.Machine

/-! ## Branches -/

/-- Each branch tests one flag against the value that takes it (R222 to R229). -/
theorem exec_branchForm {i : Instr} {f : Flag} {b : Bool} {off : Byte} (h : branchForm i = some (f, b, off)) (s : State) :
    exec i s = branchIf (getFlag f s.cpu.p == b) off s := by
  cases i <;> cases h <;> simp only [beq_true, beq_false] <;> rfl

theorem branchIf_taken (off : Byte) (s : State) :
    branchIf true off s =
      .next ((s.setPc (s.cpu.pc + sext8 off)).cost (3 + pageCycle (pagesDiffer (s.cpu.pc + sext8 off) s.cpu.pc))) :=
  rfl

theorem branchIf_notTaken (off : Byte) (s : State) : branchIf false off s = .next (s.cost 2) := rfl

/-- Adding a sign-extended offset is adding the signed byte modulo 65536 (R220). -/
theorem add_sext8_toNat (pc : Addr) (off : Byte) :
    ((pc + sext8 off).toNat : Int) = ((pc.toNat : Int) + off.toInt) % 65536 := by
  have hoff : ((sext8 off).toNat : Int) = off.toInt % 65536 := by
    rw [sext8, BitVec.signExtend, BitVec.toNat_ofInt]
    exact Int.toNat_of_nonneg (Int.emod_nonneg _ (by decide))
  rw [BitVec.toNat_add, Int.natCast_emod, Int.natCast_add, hoff]
  exact Int.add_emod_emod _ _ _

/-- The high byte of an address is its page. -/
theorem hiByte_toNat (a : Addr) : (hiByte a).toNat = a.toNat / 256 := by
  have ha := a.isLt
  rw [hiByte, BitVec.extractLsb'_toNat, Nat.shiftRight_eq_div_pow]
  omega

theorem loByte_toNat (a : Addr) : (loByte a).toNat = a.toNat % 256 := by
  rw [loByte, BitVec.extractLsb'_toNat, Nat.shiftRight_zero]

/-- The cycles owed after a branch taken: one for the target, one more when it is in another page (R220). -/
theorem branchTaken_owed (target pc : Addr) :
    3 + pageCycle (pagesDiffer target pc) - 1 = if target.toNat / 256 = pc.toNat / 256 then 2 else 3 := by
  simp only [pageCycle, pagesDiffer, bne_iff_ne, ne_eq, BitVec.toNat_eq, hiByte_toNat]
  by_cases hpage : target.toNat / 256 = pc.toNat / 256
  · rw [if_neg (not_not.2 hpage), if_pos hpage]
  · rw [if_pos hpage, if_neg hpage]

/-- Settles O30: a branch not taken only owes its cycle, a branch taken also sets PC. -/
theorem branchInstructions : Obligations.BranchInstructions := by
  intro i f b off s h
  rw [exec_branchForm h]
  by_cases hf : getFlag f s.cpu.p = b
  · have htaken : (getFlag f s.cpu.p == b) = true := beq_iff_eq.2 hf
    have howed := branchTaken_owed (s.cpu.pc + sext8 off) s.cpu.pc
    rw [htaken, branchIf_taken]
    exact ⟨_, rfl, rfl, fun hne => absurd hf hne, fun _ => ⟨add_sext8_toNat _ _, congrArg (s.cpu.debt + ·) howed⟩,
      busByte_sameOutsideCpu rfl⟩
  · have hnot : (getFlag f s.cpu.p == b) = false := beq_eq_false_iff_ne.2 hf
    rw [hnot, branchIf_notTaken]
    exact ⟨_, rfl, rfl, fun _ => ⟨rfl, rfl⟩, fun he => absurd he hf, busByte_sameOutsideCpu rfl⟩

/-! ## Jumps -/

/-- The second pointer byte of JMP indirect is at the next address of the same page (R246). -/
theorem nextInPage_eq (ptr : Addr) :
    nextInPage ptr = BitVec.ofNat 16 (ptr.toNat / 256 * 256 + (ptr.toNat + 1) % 256) := by
  have hptr := ptr.isLt
  apply BitVec.eq_of_toNat_eq
  rw [nextInPage, addrOf_toNat, BitVec.toNat_add, hiByte_toNat, loByte_toNat, BitVec.toNat_ofNat, BitVec.toNat_ofNat]
  omega

/-- JMP indirect is two bus reads and a change of registers (R246). -/
theorem exec_jmpInd (ptr : Addr) (s : State) :
    exec (.jmpInd ptr) s =
      .next
        (((memRead (nextInPage ptr) (memRead ptr s).2).2.setPc
          (addrOf (busByte ptr s) (busByte (nextInPage ptr) (memRead ptr s).2))).cost 5) :=
  rfl

/-- A bus read changes no byte of plain memory. -/
theorem busByte_memRead_plain {b : Addr} (hb : deviceAddr b = false) (a : Addr) (s : State) :
    busByte b (memRead a s).2 = busByte b s :=
  busByte_congr hb (memRead_ramField a s) (memRead_cart a s)

/-- A bus read without a side effect changes no byte at all. -/
theorem busByte_memRead_quiet {a : Addr} (ha : readSideEffect a = false) (b : Addr) (s : State) :
    busByte b (memRead a s).2 = busByte b s := by
  rw [memRead_quiet ha s]
  exact busByte_congr_all b rfl rfl rfl rfl

/-- Settles O33: JMP absolute sets PC; JMP indirect sets it after two bus reads. -/
theorem jumpInstructions : Obligations.JumpInstructions := by
  refine ⟨fun s a => ⟨_, rfl, rfl, rfl, busByte_sameOutsideCpu rfl⟩, fun s ptr => ?_⟩
  dsimp only
  rw [← nextInPage_eq]
  refine ⟨_, exec_jmpInd ptr s, ?_, rfl, fun b hb => ?_, fun hlo hhi => ⟨?_, fun b => ?_⟩⟩
  · simp only [State.cost, State.addDebt, State.setPc, memRead_cpu]
  · rw [busByte_cost, busByte_setPc, busByte_memRead_plain hb, busByte_memRead_plain hb]
  · rw [State.cost_pc, State.setPc_pc, busByte_memRead_quiet hlo]
  · rw [busByte_cost, busByte_setPc, busByte_memRead_quiet hhi, busByte_memRead_quiet hlo]

/-! ## Flag instructions, NOP and the undefined opcodes -/

/-- Each flag instruction writes its flag in 2 cycles (R251 to R257, R470). -/
theorem exec_flagForm {i : Instr} {f : Flag} {b : Bool} (h : flagForm i = some (f, b)) (s : State) :
    exec i s = .next ((s.setFlag f b).cost 2) := by
  cases i <;> cases h <;> rfl

theorem setFlag_kept (f : Flag) (b : Bool) (p : Byte) : flagsKept [f] p (setFlag f b p) := fun _ hg =>
  getFlag_setFlag_other (List.ne_of_not_mem_cons hg) b p

/-- Settles O38: every form is one flag write, NOP is none. -/
theorem flagInstructionsAndNop : Obligations.FlagInstructionsAndNop := by
  refine ⟨⟨rfl, rfl, rfl, rfl, rfl, rfl, rfl, rfl⟩, fun i f b s h => ?_, fun s => ?_⟩
  · exact ⟨_, exec_flagForm h s, getFlag_setFlag_same f b s.cpu.p, setFlag_kept f b s.cpu.p, rfl,
      busByte_sameOutsideCpu rfl⟩
  · exact ⟨_, rfl, rfl, busByte_sameOutsideCpu rfl⟩

/-- An undefined opcode is logged with its address in 2 cycles (R262). -/
theorem exec_und (op : Byte) (s : State) :
    exec (.und op) s = .next ((s.record (.undefinedOpcode op (s.cpu.pc - 1#16))).cost 2) :=
  rfl

/-- Settles O39: no bus read depends on the log or on the cycles owed. -/
theorem undefinedOpcodes : Obligations.UndefinedOpcodes := by
  refine fun s op => ⟨_, exec_und op s, rfl, fun a => ?_⟩
  rw [busByte_cost, busByte_record]

end Sys2Proof.Machine
end

section
/-! The stack instructions, JSR and RTS, BRK and RTI, and interrupt entry (48_stack.md R235 to R240, 49_jump_system_flags.md
R247 to R250, 60_exceptions.md R402 to R405), in terms of the bytes that bus reads of the stack find. -/

namespace Sys2Proof.Machine

/-! ## Bytes of the stack -/

theorem busByte_stackAddr (sp : Byte) (s : State) : busByte (stackAddr sp) s = Memory.read s.ram (256 + sp.toNat) := by
  rw [busByte, memRead_stackAddr]

/-- The addresses of a stack byte: the one in page 1 and its mirrors (R78). -/
theorem sameRamByte_stackAddr_iff (sp : Byte) (b : Addr) :
    sameRamByte (stackAddr sp) b ↔ b.toNat ≤ 0x1FFF ∧ b.toNat % 0x0800 = 256 + sp.toNat := by
  have hsp := sp.isLt
  rw [sameRamByte, stackAddr_toNat]
  omega

/-- Two stack addresses are the same byte only for the same stack pointer. -/
theorem sameRamByte_stackAddr_inj {sp sp' : Byte} : sameRamByte (stackAddr sp) (stackAddr sp') ↔ sp' = sp := by
  have hsp := sp'.isLt
  rw [sameRamByte_stackAddr_iff, stackAddr_toNat, BitVec.toNat_eq]
  omega

/-- Any bus read after a push. -/
theorem busByte_push (v : Byte) (s : State) (b : Addr) :
    busByte b (push v s) = if sameRamByte (stackAddr s.cpu.sp) b then v else busByte b s := by
  rw [push, busByte_setSp, memWrite_stackAddr, busByte_ramWrite]
  exact if_congr (sameRamByte_stackAddr_iff _ b).symm rfl rfl

theorem push_cpu (v : Byte) (s : State) : (push v s).cpu = { s.cpu with sp := s.cpu.sp - 1#8 } := by
  rw [push_eq]

theorem push16_cpu (v : Addr) (s : State) : (push16 v s).cpu = { s.cpu with sp := s.cpu.sp - 2#8 } := by
  rw [push16_eq]

/-- Any bus read after a word is pushed: the high byte lies at the stack pointer, the low byte below it (R235). -/
theorem busByte_push16 (v : Addr) (s : State) (b : Addr) :
    busByte b (push16 v s) =
      if sameRamByte (stackAddr (s.cpu.sp - 1#8)) b then loByte v
      else if sameRamByte (stackAddr s.cpu.sp) b then hiByte v else busByte b s := by
  rw [push16, busByte_push, push_cpu, busByte_push]

/-- A pull gives the byte a bus read above the stack pointer finds (R236). -/
theorem pull_eq_busByte (s : State) :
    pull s = (busByte (stackAddr (s.cpu.sp + 1#8)) s, s.setSp (s.cpu.sp + 1#8)) := by
  rw [pull_eq, busByte_stackAddr]

theorem pull16_eq_busByte (s : State) :
    pull16 s =
      (addrOf (busByte (stackAddr (s.cpu.sp + 1#8)) s) (busByte (stackAddr (s.cpu.sp + 2#8)) s),
        s.setSp (s.cpu.sp + 2#8)) := by
  rw [pull16_eq, busByte_stackAddr, busByte_stackAddr]

/-! ## PHA, PHP, PLA and PLP -/

/-- What a push instruction leaves (R235, R237, R238). -/
theorem push_cost_spec (v : Byte) (s : State) :
    ((push v s).cost 3).cpu = { s.cpu with sp := s.cpu.sp - 1#8, debt := s.cpu.debt + 2 } ∧
      busByte (stackAddr s.cpu.sp) ((push v s).cost 3) = v ∧ sameOutsideCpuRam s ((push v s).cost 3) ∧
      memoryBut (stackAddr s.cpu.sp) s ((push v s).cost 3) := by
  refine ⟨?_, ?_, ?_, fun b _ hb => ?_⟩
  · rw [State.cost, State.addDebt, push_cpu]
  · rw [busByte_cost, busByte_push, if_pos (sameRamByte_stackAddr_inj.2 rfl)]
  · rw [push_eq]
    rfl
  · rw [busByte_cost, busByte_push, if_neg hb]

/-- Settles O31: both push one byte. -/
theorem pushInstructions : Obligations.PushInstructions := by
  rintro i s (rfl | rfl)
  · exact ⟨_, rfl, push_cost_spec s.cpu.a s⟩
  · exact ⟨_, rfl, push_cost_spec (statusPushedByInstruction s.cpu.p) s⟩

theorem exec_pla (s : State) :
    exec .pla s = .next ((loadA (busByte (stackAddr (s.cpu.sp + 1#8)) s) (s.setSp (s.cpu.sp + 1#8))).cost 4) := by
  change execPla s = _
  rw [execPla, pull_eq_busByte]

theorem exec_plp (s : State) :
    exec .plp s =
      .next (((s.setSp (s.cpu.sp + 1#8)).setP (statusPulled (busByte (stackAddr (s.cpu.sp + 1#8)) s))).cost 4) := by
  change execPlp s = _
  rw [execPlp, pull_eq_busByte]

theorem regsKept_setASpP (c : Cpu) (a sp p : Byte) (debt : Nat) :
    regsKept [.a, .sp, .p] c { c with a := a, sp := sp, p := p, debt := debt } := by
  intro r hr
  cases r with
  | a | sp | p => simp at hr
  | x | y | pc => rfl

theorem regsKept_setSpP (c : Cpu) (sp p : Byte) (debt : Nat) :
    regsKept [.sp, .p] c { c with sp := sp, p := p, debt := debt } := by
  intro r hr
  cases r with
  | sp | p => simp at hr
  | a | x | y | pc => rfl

/-- Settles O32: PLA loads A with the byte pulled, as the loads do; PLP only writes the status. -/
theorem pullInstructions : Obligations.PullInstructions := by
  rintro i s (rfl | rfl)
  · exact ⟨_, exec_pla s, rfl, rfl, rfl,
      fun _ => ⟨rfl, flagsZN_setZN _ s.cpu.p, regsKept_setASpP s.cpu _ _ _ _⟩, nofun, rfl, busByte_sameOutsideCpu rfl⟩
  · exact ⟨_, exec_plp s, rfl, rfl, rfl, nofun, fun _ => ⟨rfl, regsKept_setSpP s.cpu _ _ _⟩, rfl,
      busByte_sameOutsideCpu rfl⟩

/-! ## JSR and RTS -/

theorem exec_jsr (a : Addr) (s : State) : exec (.jsr a) s = .next (((push16 (s.cpu.pc - 1#16) s).setPc a).cost 6) := rfl

theorem exec_rts (s : State) : exec .rts s = .next (((pull16 s).2.setPc ((pull16 s).1 + 1#16)).cost 6) := rfl

/-- A byte below the stack pointer is another one than the byte at it. -/
theorem sub_one_ne (sp : Byte) : sp ≠ sp - 1#8 := by bv_omega

/-- Settles O34: JSR pushes a word and sets PC, RTS pulls one. -/
theorem subroutineInstructions : Obligations.SubroutineInstructions := by
  refine ⟨fun s a => ⟨_, exec_jsr a s, ?_, ?_, ?_, ?_, fun b hhi hlo => ?_⟩, fun s => ?_⟩
  · simp only [State.cost, State.addDebt, State.setPc, push16_cpu]
  · rw [busByte_cost, busByte_setPc, busByte_push16, if_neg (mt sameRamByte_stackAddr_inj.1 (sub_one_ne _)),
      if_pos (sameRamByte_stackAddr_inj.2 rfl)]
  · rw [busByte_cost, busByte_setPc, busByte_push16, if_pos (sameRamByte_stackAddr_inj.2 rfl)]
  · rw [push16_eq]
    rfl
  · rw [busByte_cost, busByte_setPc, busByte_push16, if_neg hlo, if_neg hhi]
  · rw [exec_rts, pull16_eq_busByte]
    exact ⟨_, rfl, rfl, rfl, busByte_sameOutsideCpu rfl⟩

/-- Pulling a word from where one was pushed gives it back, and SP as it was before the push (R235, R236). -/
theorem pull16_of_pushed {v : Addr} {s t : State} (hmem : ∀ b, busByte b t = busByte b (push16 v s))
    (hsp : t.cpu.sp = s.cpu.sp - 2#8) : pull16 t = (v, t.setSp s.cpu.sp) := by
  have e1 : s.cpu.sp - 2#8 + 1#8 = s.cpu.sp - 1#8 := by bv_omega
  have e2 : s.cpu.sp - 2#8 + 2#8 = s.cpu.sp := by bv_omega
  have hlo : busByte (stackAddr (s.cpu.sp - 1#8)) t = loByte v := by
    rw [hmem, busByte_push16, if_pos (sameRamByte_stackAddr_inj.2 rfl)]
  have hhi : busByte (stackAddr s.cpu.sp) t = hiByte v := by
    rw [hmem, busByte_push16, if_neg (mt sameRamByte_stackAddr_inj.1 (sub_one_ne _)),
      if_pos (sameRamByte_stackAddr_inj.2 rfl)]
  rw [pull16_eq_busByte, hsp, e1, e2, hlo, hhi, addrOf_loByte_hiByte]

/-- Settles O35: neither the jump of JSR nor its cycles touch the word pushed. -/
theorem stackRoundTrip : Obligations.StackRoundTrip := by
  refine ⟨fun s v => ?_, fun s a => ?_⟩
  · rw [pull16_of_pushed (s := s) (fun _ => rfl) (by rw [push16_cpu])]
    refine ⟨rfl, ?_⟩
    rw [State.setSp, push16_cpu]
  · have hpull := pull16_of_pushed (s := s) (v := s.cpu.pc - 1#16)
      (t := ((push16 (s.cpu.pc - 1#16) s).setPc a).cost 6)
      (fun b => by rw [busByte_cost, busByte_setPc]) (by rw [State.cost_sp, State.setPc_sp, push16_cpu])
    refine ⟨_, _, exec_jsr a s, exec_rts _, ?_, ?_, ?_⟩
    · rw [hpull]
      exact BitVec.sub_add_cancel _ _
    · rw [hpull]
      rfl
    · rw [hpull]
      simp only [State.cost_p, State.setPc_p, State.setSp_p, push16_cpu]

/-! ## Interrupt entry, BRK and RTI -/

theorem regsKept_setSpPcP (c : Cpu) (sp p : Byte) (pc : Addr) (debt : Nat) :
    regsKept [.sp, .pc, .p] c { c with sp := sp, pc := pc, p := p, debt := debt } := by
  intro r hr
  cases r with
  | sp | pc | p => simp at hr
  | a | x | y => rfl

/-- What BRK, NMI and IRQ share: entering a handler with a return address and a status byte, and `n` cycles owed (R250,
R402). -/
theorem enterHandler_spec (b : Byte) {vec : Addr} (h : 0xFF00 ≤ vec.toNat) (h' : vec.toNat < 0xFFFF) (pc : Addr) (n : Nat)
    (s : State) :
    let t := (enterHandler b vec (s.setPc pc)).addDebt n
    pushedThree (hiByte pc) (loByte pc) b s t ∧ t.cpu.sp = s.cpu.sp - 3#8 ∧ t.cpu.pc = busWord vec s ∧
      t.cpu.p = s.cpu.p ||| 0x04#8 ∧ regsKept [.sp, .pc, .p] s.cpu t.cpu ∧ t.cpu.debt = s.cpu.debt + n ∧
      t.cpu.cycles = s.cpu.cycles ∧ sameOutsideCpuRamLog s t := by
  obtain ⟨log, he⟩ := enterHandler_eq b vec (s.setPc pc) h h'
  have hvec : busWord vec (s.setPc pc) = busWord vec s := by
    rw [busWord, busByte_setPc, busByte_setPc, busWord]
  rw [he, hvec]
  exact ⟨pushedThree_of_ram rfl rfl rfl rfl, rfl, rfl, rfl, regsKept_setSpPcP s.cpu _ _ _ _, rfl, rfl, rfl⟩

/-- Settles O36: BRK enters the handler at 0xFFFE from behind its padding byte. -/
theorem brkInstruction : Obligations.BrkInstruction := fun s =>
  ⟨_, rfl, enterHandler_spec (statusPushedByInstruction s.cpu.p) (vec := irqVector) (by decide) (by decide)
    (s.cpu.pc + 1#16) 6 s⟩

/-- Settles O40: NMI and an IRQ that is not masked enter their handlers at PC. -/
theorem interruptEntry : Obligations.InterruptEntry := by
  refine ⟨fun s hi => if_pos hi, ?_⟩
  rintro s t vec (⟨rfl, rfl⟩ | ⟨rfl, rfl, hi⟩)
  · exact enterHandler_spec (statusPushedByInterrupt s.cpu.p) (by decide) (by decide) s.cpu.pc 7 s
  · rw [cpuIrq_of_enabled hi]
    exact enterHandler_spec (statusPushedByInterrupt s.cpu.p) (by decide) (by decide) s.cpu.pc 7 s

theorem exec_rti (s : State) : exec .rti s = .next ((returnFromInterrupt s).cost 6) := rfl

/-- Settles O37: RTI pulls a status byte and a word. -/
theorem rtiInstruction : Obligations.RtiInstruction := by
  intro s
  rw [exec_rti, returnFromInterrupt_eq, ← busByte_stackAddr, ← busByte_stackAddr, ← busByte_stackAddr]
  exact ⟨_, rfl, rfl, rfl, busByte_sameOutsideCpu rfl⟩

end Sys2Proof.Machine
end

section
/-! The cycles an instruction owes (55_system_clock_dma.md R376): whatever its shape, it ends in one `Cost(c)` with `c` from 2
to 7, and nothing before that touches the debt. -/

namespace Sys2Proof.Machine

/-- At least one and at most six more cycles are owed. -/
def OwesCost (s t : State) : Prop := s.cpu.debt + 1 ≤ t.cpu.debt ∧ t.cpu.debt ≤ s.cpu.debt + 6

theorem pageCycle_le (crossed : Bool) : pageCycle crossed ≤ 1 := by cases crossed <;> decide

namespace OwesCost

variable {s t : State}

theorem of_cost {n : Nat} (h : t.cpu.debt = s.cpu.debt) (hn : 2 ≤ n ∧ n ≤ 7) : OwesCost s (t.cost n) := by
  rw [OwesCost, State.cost_debt, h]
  omega

theorem readingInstr {o : Operand} {base : Nat} {f : Byte → State → State}
    (h : Machine.readingInstr o base f s = .next t) (hb : 2 ≤ base ∧ base ≤ 6)
    (hf : ∀ m u, (f m u).cpu.debt = u.cpu.debt) : OwesCost s t := by
  have hcross : crossCycle o s ≤ 1 := pageCycle_le _
  rw [readingInstr_eq] at h
  cases h
  exact of_cost (by rw [hf, operandAfter_cpu]) (by omega)

theorem storingInstr {o : Operand} {base : Nat} {v : Byte} (h : Machine.storingInstr o base v s = .next t)
    (hb : 2 ≤ base ∧ base ≤ 7) : OwesCost s t := by
  rw [storingInstr_eq] at h
  cases h
  exact of_cost (by rw [memWrite_cpu]) hb

theorem modifyingInstr {o : Operand} {base : Nat} {f : Byte → Byte → ModifyResult}
    (h : Machine.modifyingInstr o base f s = .next t) (hb : 2 ≤ base ∧ base ≤ 7) : OwesCost s t := by
  rw [modifyingInstr_eq] at h
  cases h
  exact of_cost (by rw [State.setP_debt, memWrite_cpu, memRead_cpu]) hb

theorem branchIf {c : Bool} {off : Byte} (h : Machine.branchIf c off s = .next t) : OwesCost s t := by
  unfold Machine.branchIf at h
  split at h
  · cases h
    have hpage := pageCycle_le (pagesDiffer (s.cpu.pc + sext8 off) s.cpu.pc)
    exact of_cost rfl (by omega)
  · cases h
    exact of_cost rfl (by decide)

end OwesCost

theorem pull_debt (s : State) : (pull s).2.cpu.debt = s.cpu.debt := by
  rw [pull_eq, State.setSp_debt]

theorem enterHandler_debt (b : Byte) (vec : Addr) (s : State) : (enterHandler b vec s).cpu.debt = s.cpu.debt := by
  simp only [enterHandler, read16, State.setPc_debt, memRead_cpu, State.setFlag_debt, push_eq, push16_eq]

theorem returnFromInterrupt_debt (s : State) : (returnFromInterrupt s).cpu.debt = s.cpu.debt := by
  rw [returnFromInterrupt_eq]

/-- Every instruction ends in one `Cost(c)` with `c` from 2 to 7 (R376, R470). -/
theorem exec_owesCost {i : Instr} {s t : State} (h : exec i s = .next t) : OwesCost s t := by
  cases i
  case bcc | bcs | beq | bne | bmi | bpl | bvc | bvs => exact .branchIf h
  case ldaImm | ldaZp | ldaZpX | ldaAbs | ldaAbsX | ldaAbsY | ldaIndX | ldaIndY | ldxImm | ldxZp | ldxZpY | ldxAbs |
    ldxAbsY | ldyImm | ldyZp | ldyZpX | ldyAbs | ldyAbsX | andImm | andZp | andZpX | andAbs | andAbsX | andAbsY |
    andIndX | andIndY | oraImm | oraZp | oraZpX | oraAbs | oraAbsX | oraAbsY | oraIndX | oraIndY | eorImm | eorZp |
    eorZpX | eorAbs | eorAbsX | eorAbsY | eorIndX | eorIndY | bitZp | bitAbs | cmpImm | cmpZp | cmpZpX | cmpAbs |
    cmpAbsX | cmpAbsY | cmpIndX | cmpIndY | cpxImm | cpxZp | cpxAbs | cpyImm | cpyZp | cpyAbs | adcImm | adcZp |
    adcZpX | adcAbs | adcAbsX | adcAbsY | adcIndX | adcIndY | sbcImm | sbcZp | sbcZpX | sbcAbs | sbcAbsX | sbcAbsY |
    sbcIndX | sbcIndY =>
    exact .readingInstr h (by decide) fun _ _ => rfl
  case staZp | staZpX | staAbs | staAbsX | staAbsY | staIndX | staIndY | stxZp | stxZpY | stxAbs | styZp | styZpX |
    styAbs =>
    exact .storingInstr h (by decide)
  case incZp | incZpX | incAbs | incAbsX | decZp | decZpX | decAbs | decAbsX | aslZp | aslZpX | aslAbs | aslAbsX |
    lsrZp | lsrZpX | lsrAbs | lsrAbsX | rolZp | rolZpX | rolAbs | rolAbsX | rorZp | rorZpX | rorAbs | rorAbsX =>
    exact .modifyingInstr h (by decide)
  case tax | tay | txa | tya | tsx | txs | inx | iny | dex | dey | aslAcc | lsrAcc | rolAcc | rorAcc | jmpAbs | clc |
    sec | cli | sei | cld | sed | clv | nop | und =>
    cases h
    exact .of_cost rfl (by decide)
  case pha | php =>
    cases h
    exact .of_cost (by rw [push_eq]) (by decide)
  case pla | plp =>
    cases h
    exact .of_cost (pull_debt s) (by decide)
  case jsr =>
    cases h
    exact .of_cost (by rw [push16_eq, State.setPc_debt]) (by decide)
  case rts =>
    cases h
    exact .of_cost (by rw [pull16_eq, State.setPc_debt, State.setSp_debt]) (by decide)
  case jmpInd =>
    cases h
    exact .of_cost (by simp only [readTarget, State.setPc_debt, memRead_cpu]) (by decide)
  case rti =>
    cases h
    exact .of_cost (returnFromInterrupt_debt s) (by decide)
  case brk =>
    cases h
    exact .of_cost (enterHandler_debt _ _ _) (by decide)

/-- Settles O44, by the cost of every instruction. -/
theorem cycleCosts : Obligations.CycleCosts := fun _ _ _ h => exec_owesCost h

end Sys2Proof.Machine
end

section
/-! The scroll, address and control ports (50_ppu_registers.md R277, R283, R284): the loopy register `t`, field by field. -/

namespace Sys2Proof.Machine

/-! ## The ports as updates of the PPU -/

theorem memWrite_controlPort (x : Byte) (s : State) : (memWrite 0x2000#16 x s).ppu = s.ppu.writeCtrl x := by
  rw [memWrite_ppuRegister (by decide) (by decide)]
  rfl

theorem memWrite_scrollPort (x : Byte) (s : State) : (memWrite 0x2005#16 x s).ppu = s.ppu.writeScroll x := by
  rw [memWrite_ppuRegister (by decide) (by decide)]
  rfl

theorem memWrite_addressPort (x : Byte) (s : State) : (memWrite 0x2006#16 x s).ppu = s.ppu.writeAddress x := by
  rw [memWrite_ppuRegister (by decide) (by decide)]
  rfl

/-- Two writes of the scroll port: the first sets fine and coarse X, the second fine and coarse Y (R283). -/
theorem writeScroll_twice {u : Ppu} (h : u.w = false) (x y : Byte) :
    (u.writeScroll x).writeScroll y =
      { u with
        fineX := x.extractLsb' 0 3
        t :=
          loopySet .coarseY (y >>> 3).toNat
            (loopySet .fineY (y.extractLsb' 0 3).toNat (loopySet .coarseX (x >>> 3).toNat u.t))
        w := false } := by
  simp only [Ppu.writeScroll, h, Bool.false_eq_true, if_true, if_false]

/-- The loopy register that two writes of the address port compose (R284). -/
def addressPair (x y : Byte) : LoopyReg := ((x &&& 0x3F#8).setWidth 15 <<< 8) ||| y.setWidth 15

/-- The second address write keeps of `t` what the first one put in its high bits. -/
theorem address_highBits (a t : LoopyReg) : ((a <<< 8) ||| (t &&& 0x00FF#15)) &&& 0x7F00#15 = a <<< 8 := by
  have hhigh : ∀ i < 15, (0x7F00#15).getLsbD i = decide (8 ≤ i) := by decide
  have hlow : ∀ i < 15, (0x00FF#15).getLsbD i = decide (i < 8) := by decide
  refine BitVec.eq_of_getLsbD_eq fun i hi => ?_
  simp only [BitVec.getLsbD_and, BitVec.getLsbD_or, BitVec.getLsbD_shiftLeft, hhigh i hi, hlow i hi]
  by_cases h : i < 8
  · simp [h, Nat.not_le.2 h]
  · simp [h, Nat.not_lt.1 h]

/-- Two writes of the address port: both loopy registers hold the pair (R284). -/
theorem writeAddress_twice {u : Ppu} (h : u.w = false) (x y : Byte) :
    (u.writeAddress x).writeAddress y = { u with t := addressPair x y, v := addressPair x y, w := false } := by
  simp only [Ppu.writeAddress, h, Bool.false_eq_true, if_true, if_false, address_highBits, addressPair]

/-- The pair as a number: six bits of the first byte, then the second (decision D26). -/
theorem addressPair_toNat (x y : Byte) : (addressPair x y).toNat = x.toNat % 64 * 256 + y.toNat := by
  have hx : (x &&& 0x3F#8).toNat = x.toNat % 64 := Nat.and_two_pow_sub_one_eq_mod x.toNat 6
  have hy := y.isLt
  have hhigh : ((x &&& 0x3F#8).setWidth 15 <<< 8).toNat = 2 ^ 8 * (x.toNat % 64) := by
    rw [BitVec.toNat_shiftLeft, BitVec.toNat_setWidth, hx, Nat.shiftLeft_eq]
    omega
  rw [addressPair, BitVec.toNat_or, hhigh, BitVec.toNat_setWidth, Nat.mod_eq_of_lt (by omega : y.toNat < 2 ^ 15),
    ← Nat.two_pow_add_eq_or_of_lt hy]
  omega

/-! ## The bits of a byte written to a port (decision D25) -/

theorem byte_fine (x : Byte) : (x.extractLsb' 0 3).toNat = x.toNat % 8 := by
  rw [BitVec.extractLsb'_toNat, Nat.shiftRight_zero]

theorem byte_coarse (x : Byte) : (x >>> 3).toNat = x.toNat / 8 := by
  rw [BitVec.toNat_ushiftRight, Nat.shiftRight_eq_div_pow]

theorem byte_bit (x : Byte) (i : Nat) : (x.getLsbD i).toNat = x.toNat / 2 ^ i % 2 := by
  rw [BitVec.getLsbD, Nat.toNat_testBit]

/-- What two scroll writes leave in `t`, field by field: the nametable bits are kept (R283). -/
theorem scroll_fields (x y : Byte) (t : LoopyReg) :
    let r := loopySet .coarseY (y >>> 3).toNat
      (loopySet .fineY (y.extractLsb' 0 3).toNat (loopySet .coarseX (x >>> 3).toNat t))
    loopyGet .coarseX r = x.toNat / 8 ∧ loopyGet .fineY r = y.toNat % 8 ∧ loopyGet .coarseY r = y.toNat / 8 ∧
      loopyGet .nametableX r = loopyGet .nametableX t ∧ loopyGet .nametableY r = loopyGet .nametableY t := by
  have hx := x.isLt
  have hy := y.isLt
  simp only [loopyGet_loopySet_same, loopyGet_loopySet_other, ne_eq, reduceCtorEq, not_false_eq_true,
    byte_fine, byte_coarse, LoopyField.width, and_self, and_true]
  omega

/-- What a control write leaves in `t`, field by field: the nametable bits are set (R277). -/
theorem control_fields (x : Byte) (t : LoopyReg) :
    let r := loopySet .nametableY (x.getLsbD 1).toNat (loopySet .nametableX (x.getLsbD 0).toNat t)
    loopyGet .nametableX r = x.toNat % 2 ∧ loopyGet .nametableY r = x.toNat / 2 % 2 ∧
      loopyGet .coarseX r = loopyGet .coarseX t ∧ loopyGet .coarseY r = loopyGet .coarseY t ∧
      loopyGet .fineY r = loopyGet .fineY t := by
  simp only [loopyGet_loopySet_same, loopyGet_loopySet_other, ne_eq, reduceCtorEq, not_false_eq_true, byte_bit,
    LoopyField.width, and_self, and_true]
  omega

/-- Settles O15, port by port. -/
theorem scrollAndAddressPorts : Obligations.ScrollAndAddressPorts := by
  intro s x y hw
  obtain ⟨hcx, hfy, hcy, hnx, hny⟩ := scroll_fields x y s.ppu.t
  obtain ⟨hnx', hny', hcx', hcy', hfy'⟩ := control_fields x s.ppu.t
  refine ⟨?_, ?_, ?_⟩
  · rw [memWrite_scrollPort, memWrite_scrollPort, writeScroll_twice hw]
    exact ⟨byte_fine x, hcx, hfy, hcy, hnx, hny, rfl, rfl⟩
  · rw [memWrite_addressPort, memWrite_addressPort, writeAddress_twice hw]
    exact ⟨addressPair_toNat x y, rfl, rfl, rfl⟩
  · rw [memWrite_controlPort]
    exact ⟨rfl, hnx', hny', hcx', hcy', hfy', rfl, rfl⟩

end Sys2Proof.Machine
end

section
/-! The rendering pipeline at one dot (51_ppu_rendering.md R312, R313, R326, R327, R340, R341, R344, R349): the scroll
increments, the sprite evaluation, bit reversal and priority. -/

namespace Sys2Proof.Machine

/-! ## The scroll increments -/

theorem loopyGet_lt (f : LoopyField) (reg : LoopyReg) : loopyGet f reg < 2 ^ f.width := by
  rw [loopyGet_eq]
  exact Nat.mod_lt _ (Nat.two_pow_pos _)

/-- A one-bit field flipped. -/
theorem flipped_bit {n : Nat} (h : n < 2 ^ 1) : (n + 1) % 2 = 1 - n := by omega

/-- The horizontal increment, field by field (R326). -/
theorem nextCoarseX_fields (v : LoopyReg) :
    loopyGet .coarseX (nextCoarseX v) = (loopyGet .coarseX v + 1) % 32 ∧
      loopyGet .nametableX (nextCoarseX v) =
        (if loopyGet .coarseX v = 31 then 1 - loopyGet .nametableX v else loopyGet .nametableX v) ∧
      loopyGet .coarseY (nextCoarseX v) = loopyGet .coarseY v ∧
      loopyGet .nametableY (nextCoarseX v) = loopyGet .nametableY v ∧
      loopyGet .fineY (nextCoarseX v) = loopyGet .fineY v := by
  have hn := flipped_bit (loopyGet_lt .nametableX v)
  unfold nextCoarseX
  split
  next h => simp [loopyGet_loopySet_same, loopyGet_loopySet_other, LoopyField.width, hn, h]
  next => simp [loopyGet_loopySet_same, loopyGet_loopySet_other, LoopyField.width]

/-- The vertical increment, field by field (R327). -/
theorem nextFineY_fields (v : LoopyReg) :
    loopyGet .fineY (nextFineY v) = (loopyGet .fineY v + 1) % 8 ∧
      loopyGet .coarseY (nextFineY v) =
        (if loopyGet .fineY v < 7 then loopyGet .coarseY v
        else if loopyGet .coarseY v = 29 ∨ loopyGet .coarseY v = 31 then 0
        else loopyGet .coarseY v + 1) ∧
      loopyGet .nametableY (nextFineY v) =
        (if loopyGet .fineY v = 7 ∧ loopyGet .coarseY v = 29 then 1 - loopyGet .nametableY v
        else loopyGet .nametableY v) ∧
      loopyGet .coarseX (nextFineY v) = loopyGet .coarseX v ∧
      loopyGet .nametableX (nextFineY v) = loopyGet .nametableX v := by
  have hn := flipped_bit (loopyGet_lt .nametableY v)
  have hf : loopyGet .fineY v < 8 := loopyGet_lt .fineY v
  have hc : loopyGet .coarseY v < 32 := loopyGet_lt .coarseY v
  unfold nextFineY
  dsimp only
  split
  next h => simp [loopyGet_loopySet_same, loopyGet_loopySet_other, LoopyField.width, Nat.ne_of_lt h]
  next h =>
    have h7 : loopyGet .fineY v = 7 := by omega
    split
    next h29 => simp [loopyGet_loopySet_same, loopyGet_loopySet_other, LoopyField.width, hn, h7, h29]
    next h29 =>
      split
      next h31 => simp [loopyGet_loopySet_same, loopyGet_loopySet_other, LoopyField.width, h7, h31]
      next h31 =>
        have hwrap : (loopyGet .coarseY v + 1) % 32 = loopyGet .coarseY v + 1 := Nat.mod_eq_of_lt (by omega)
        simp [loopyGet_loopySet_same, loopyGet_loopySet_other, LoopyField.width, h7, h29, h31, hwrap]

/-- Line c of R313 is the vertical increment at its place (decision D32). -/
theorem lineC_eq (u : Ppu) :
    u.lineC = if -1 ≤ u.scanline ∧ u.scanline ≤ 239 ∧ u.dot = 256 then u.incrementY else u := by
  have hplace : (u.bgLine && decide (u.dot = 256)) = true ↔ -1 ≤ u.scanline ∧ u.scanline ≤ 239 ∧ u.dot = 256 := by
    simp only [Ppu.bgLine, Bool.and_eq_true, decide_eq_true_eq, and_assoc]
  exact if_congr hplace rfl rfl

theorem incrementX_of_rendering {u : Ppu} (h : u.rendering = true) : u.incrementX = { u with v := nextCoarseX u.v } :=
  if_pos h

theorem incrementY_of_rendering {u : Ppu} (h : u.rendering = true) : u.incrementY = { u with v := nextFineY u.v } :=
  if_pos h

theorem increments_of_not_rendering {u : Ppu} (h : u.rendering = false) : u.incrementX = u ∧ u.incrementY = u := by
  rw [Ppu.incrementX, Ppu.incrementY, h]
  exact ⟨rfl, rfl⟩

/-- Settles O53, by the two increments of a loopy register. -/
theorem scrollIncrements : Obligations.ScrollIncrements := by
  refine fun u => ⟨lineC_eq u, increments_of_not_rendering, fun h => ?_⟩
  obtain ⟨hcx, hnx, hcy, hny, hfy⟩ := nextCoarseX_fields u.v
  obtain ⟨hfy', hcy', hny', hcx', hnx'⟩ := nextFineY_fields u.v
  rw [incrementX_of_rendering h, incrementY_of_rendering h]
  exact ⟨rfl, rfl, hcx, hnx, hcy, hny, hfy, hfy', hcy', hny', hcx', hnx'⟩

/-! ## Sprite evaluation -/

/-- The range test of R340 on the bytes of OAM. -/
theorem spriteInRange_eq (u : Ppu) (n : Nat) :
    u.spriteInRange n =
      decide (0 ≤ u.scanline - ((Memory.read u.oam (4 * n)).toNat : Int) ∧
        u.scanline - ((Memory.read u.oam (4 * n)).toNat : Int) < (if u.ctrl.getLsbD 5 then 16 else 8)) := by
  have hheight : (u.spriteHeight : Int) = if u.ctrl.getLsbD 5 then 16 else 8 := by
    unfold Ppu.spriteHeight
    split <;> rfl
  rw [Ppu.spriteInRange, hheight, Bool.decide_and]
  rfl

/-- Sprite 0 is first in index order, so the cut after nine matches cannot lose it (R341). -/
theorem spriteMatches_contains_zero (u : Ppu) : u.spriteMatches.contains 0 = u.spriteInRange 0 := by
  have hrange : List.range 64 = 0 :: List.range' 1 63 := rfl
  rw [Bool.eq_iff_iff, List.contains_iff_mem, Ppu.spriteMatches]
  constructor
  · intro h
    exact (List.mem_filter.1 (List.mem_of_mem_take h)).2
  · intro h
    rw [hrange, List.filter_cons_of_pos h, List.take_succ_cons]
    exact List.mem_cons_self

/-- Settles O55: the loop's cut after the ninth match loses no sprite of the first eight and no overflow. -/
theorem spriteEvaluation : Obligations.SpriteEvaluation := by
  intro u
  dsimp only
  simp only [← spriteInRange_eq]
  have hlen : u.spriteMatches.length = min 9 ((List.range 64).filter u.spriteInRange).length := List.length_take
  have hget {j : Nat} (hj : j < 9) : u.spriteMatches[j]? = ((List.range 64).filter u.spriteInRange)[j]? :=
    List.getElem?_take_of_lt hj
  generalize (List.range 64).filter u.spriteInRange = found at hlen hget ⊢
  refine ⟨?_, fun h => ?_, fun h => ?_, spriteMatches_contains_zero u, fun j n hn => ?_, fun j hj => ?_, rfl⟩
  · change min u.spriteMatches.length 8 = _
    omega
  · have hne : u.spriteMatches.length ≠ 9 := by omega
    simp [Ppu.evaluateSprites, hne]
  · have heq : u.spriteMatches.length = 9 := by omega
    simp [Ppu.evaluateSprites, heq]
  · have hj := hget (show j.val < 9 by omega)
    simp [Ppu.evaluateSprites, hj, hn, Ppu.oamRecord, Ppu.oamByte]
  · have hnone : u.spriteMatches[j.val]? = none := by
      rw [hget (by omega), List.getElem?_eq_none hj]
    simp [Ppu.evaluateSprites, hnone]

/-! ## Bit reversal and priority -/

/-- Settles O56, by the four rows of R349. -/
theorem priorityAndReversal : Obligations.PriorityAndReversal := by
  refine ⟨fun b k hk => ?_, fun bg fg => ⟨fun hb hf => ?_, fun hb hf => ?_, fun hb hf => ?_, fun hb hf => ?_⟩⟩
  · rw [reverse8, BitVec.getLsbD_reverse, BitVec.getMsbD_eq_getLsbD]
    simp [hk]
  · rw [resolvePriority, if_pos hf, if_pos hb]
  · rw [resolvePriority, if_neg hf, if_pos hb]
  · rw [resolvePriority, if_pos hf, if_neg hb]
  · rw [resolvePriority, if_neg hf, if_neg hb]

end Sys2Proof.Machine
end

section
/-! What a PPU clock does, by scanline and dot (51_ppu_rendering.md R311, R314, R316, R340, R346, R350 to R352): the counters
over a frame, the three status flags, the one pixel it plots. -/

namespace Sys2Proof.Machine

/-! ## The counters -/

section

variable (cart : Option Cartridge) (u : Ppu)

theorem advance_of_ne {u : Ppu} (h : u.dot ≠ 340) : u.advance = { u with dot := u.dot + 1 } := by
  rw [Ppu.advance, if_neg (by omega)]

theorem advance_endOfLine {u : Ppu} (hd : u.dot = 340) (hs : u.scanline ≠ 260) :
    u.advance = { u with dot := 0, scanline := u.scanline + 1 } := by
  rw [Ppu.advance, if_pos (by omega), if_neg (by omega)]

theorem advance_endOfFrame {u : Ppu} (hd : u.dot = 340) (hs : u.scanline = 260) :
    u.advance = { u with dot := 0, scanline := -1, frameComplete := true } := by
  rw [Ppu.advance, if_pos (by omega), if_pos (by omega)]

/-- The counters after a clock at any dot (R311). -/
theorem clock_timing :
    (u.dot ≠ 340 → (u.clock cart).dot = u.dot + 1 ∧ (u.clock cart).scanline = u.scanline) ∧
    (u.dot = 340 → (u.clock cart).dot = 0 ∧
      (u.clock cart).scanline = (if u.scanline = 260 then -1 else u.scanline + 1)) ∧
    (u.clock cart).frameComplete = (u.frameComplete || (decide (u.dot = 340) && decide (u.scanline = 260))) := by
  obtain ⟨hs, hd, hf⟩ := clock_counters cart u
  rw [hs, hd, hf]
  by_cases hdot : u.dot = 340
  · by_cases hscan : u.scanline = 260
    · rw [advance_endOfFrame hdot hscan]
      simp [hdot, hscan]
    · rw [advance_endOfLine hdot hscan]
      simp [hdot, hscan]
  · rw [advance_of_ne hdot]
    simp [hdot]

theorem clockTimes_succ (n : Nat) : clockTimes cart (n + 1) u = (clockTimes cart n u).clock cart := by
  induction n generalizing u with
  | zero => rfl
  | succ n ih => exact ih (u.clock cart)

/-- Inside a frame the clocks walk the 262 scanlines of 341 dots in order, and `frame_complete` stays as it was. -/
theorem clockTimes_inFrame {u : Ppu} (hs : u.scanline = -1) (hd : u.dot = 0) {n : Nat} (hn : n < 89342) :
    (clockTimes cart n u).scanline = (n / 341 : Nat) - 1 ∧ (clockTimes cart n u).dot = n % 341 ∧
      (clockTimes cart n u).frameComplete = u.frameComplete := by
  induction n with
  | zero => exact ⟨hs, hd, rfl⟩
  | succ n ih =>
    obtain ⟨ihs, ihd, ihf⟩ := ih (by omega)
    obtain ⟨hinside, hend, hcomplete⟩ := clock_timing cart (clockTimes cart n u)
    have hlast : ¬((clockTimes cart n u).dot = 340 ∧ (clockTimes cart n u).scanline = 260) := by omega
    rw [clockTimes_succ]
    refine ⟨?_, ?_, ?_⟩
    · by_cases hdot : (clockTimes cart n u).dot = 340
      · rw [(hend hdot).2, if_neg fun h => hlast ⟨hdot, h⟩]
        omega
      · rw [(hinside hdot).2]
        omega
    · by_cases hdot : (clockTimes cart n u).dot = 340
      · rw [(hend hdot).1]
        omega
      · rw [(hinside hdot).1]
        omega
    · rw [hcomplete, ← Bool.decide_and, decide_eq_false hlast, Bool.or_false, ihf]

end

/-- Settles O52: the last clock of a frame is at scanline 260, dot 340. -/
theorem frameTiming : Obligations.FrameTiming := by
  refine fun cart u => ⟨clock_timing cart u, fun hs hd => ?_⟩
  have hframe {n : Nat} (hn : n < 89342) := clockTimes_inFrame cart hs hd hn
  obtain ⟨hscan, hdot, -⟩ := hframe (n := 89341) (by decide)
  have hlast : clockTimes cart 89342 u = (clockTimes cart 89341 u).clock cart := clockTimes_succ cart u 89341
  obtain ⟨-, hend, hcomplete⟩ := clock_timing cart (clockTimes cart 89341 u)
  obtain ⟨hdot', hscan'⟩ := hend hdot
  dsimp only
  rw [hlast]
  refine ⟨?_, hdot', ?_, fun n hn => (hframe hn).2.2⟩
  · rw [hscan', hscan]
    rfl
  · rw [hcomplete, hdot, hscan]
    exact Bool.or_true _

/-! ## The status flags -/

section

variable (cart : Option Cartridge) (u : Ppu)

/-- The PPU when line f begins: lines a to e are done (R313). -/
def Ppu.beforeLineF : Ppu := ((u.lineA).lineB cart).lineC.lineD.lineE

theorem beforeLineF_frame : dotFrame u (u.beforeLineF cart) :=
  dotFrame_trans (lineA_frame u) (linesBE_flags cart u.lineA).2

theorem beforeLineF_flags : flagFrame u.lineA (u.beforeLineF cart) := (linesBE_flags cart u.lineA).1

theorem dotWork_eq : u.dotWork cart = ((u.beforeLineF cart).lineF.lineG cart).lineH := rfl

theorem lineA_flags_at {u : Ppu} (h : u.scanline = -1 ∧ u.dot = 1) :
    u.lineA.verticalBlank = false ∧ u.lineA.spriteOverflow = false ∧ u.lineA.spriteZeroHit = false := by
  rw [Ppu.lineA, if_pos h]
  exact ⟨rfl, rfl, rfl⟩

theorem lineA_elsewhere {u : Ppu} (h : ¬(u.scanline = -1 ∧ u.dot = 1)) : u.lineA = u := if_neg h

theorem lineF_elsewhere {u : Ppu} (h : ¬(0 ≤ u.scanline ∧ u.scanline ≤ 239 ∧ u.dot = 257)) : u.lineF = u := by
  refine if_neg fun hc => h ?_
  simpa only [Ppu.visible, Bool.and_eq_true, decide_eq_true_eq, and_assoc] using hc

theorem lineF_verticalBlank : u.lineF.verticalBlank = u.verticalBlank := by
  unfold Ppu.lineF
  split <;> rfl

theorem lineF_spriteZeroHit : u.lineF.spriteZeroHit = u.spriteZeroHit := by
  unfold Ppu.lineF
  split <;> rfl

/-- Line f sets overflow or leaves it, and sets it only with nine matches (R340). -/
theorem lineF_spriteOverflow :
    u.lineF.spriteOverflow = u.spriteOverflow ∨ (u.lineF.spriteOverflow = true ∧ u.spriteMatches.length = 9) := by
  by_cases hlen : u.spriteMatches.length = 9
  · rw [Ppu.lineF]
    split
    · exact .inr ⟨by simp [Ppu.evaluateSprites, hlen], hlen⟩
    · exact .inl rfl
  · rw [Ppu.lineF]
    split
    · exact .inl (by simp [Ppu.evaluateSprites, hlen])
    · exact .inl rfl

theorem lineH_verticalBlank :
    u.lineH.verticalBlank = (u.verticalBlank || (decide (u.scanline = 241) && decide (u.dot = 1))) := by
  unfold Ppu.lineH
  split
  next h => exact (Bool.or_eq_true_iff.2 (.inr h)).symm
  next h =>
    rw [Ppu.atVerticalBlank, Bool.not_eq_true] at h
    rw [h, Bool.or_false]

theorem lineH_sprite : u.lineH.spriteOverflow = u.spriteOverflow ∧ u.lineH.spriteZeroHit = u.spriteZeroHit := by
  unfold Ppu.lineH
  split <;> exact ⟨rfl, rfl⟩

/-- Vertical blank after a clock: line a may clear it and line h may set it. -/
theorem clock_verticalBlank :
    (u.clock cart).verticalBlank = (u.lineA.verticalBlank || (decide (u.scanline = 241) && decide (u.dot = 1))) := by
  have hf := dotFrame_trans (dotFrame_trans (beforeLineF_frame cart u) (lineF_frame _)) (lineG_frame cart _)
  rw [Ppu.clock, advance_frame, compose_frame, dotWork_eq, lineH_verticalBlank, dotFrame_scanline hf, dotFrame_dot hf,
    (lineG_flags cart _).1, lineF_verticalBlank, (beforeLineF_flags cart u).1]

/-- Sprite overflow after a clock is what line f leaves. -/
theorem clock_spriteOverflow : (u.clock cart).spriteOverflow = (u.beforeLineF cart).lineF.spriteOverflow := by
  rw [Ppu.clock, advance_frame, compose_frame, dotWork_eq, (lineH_sprite _).1, (lineG_flags cart _).2.2]

theorem dotWork_spriteZeroHit : (u.dotWork cart).spriteZeroHit = u.lineA.spriteZeroHit := by
  rw [dotWork_eq, (lineH_sprite _).2, (lineG_flags cart _).2.1, lineF_spriteZeroHit, (beforeLineF_flags cart u).2.1]

theorem clock_spriteZeroHit : (u.clock cart).spriteZeroHit = ((u.dotWork cart).compose cart).spriteZeroHit := by
  rw [Ppu.clock, advance_frame]

/-- A visible pixel is at dots 1 to 256 of scanlines 0 to 239 (R346). -/
theorem composing_iff : u.composing = true ↔ 0 ≤ u.scanline ∧ u.scanline ≤ 239 ∧ 1 ≤ u.dot ∧ u.dot ≤ 256 := by
  simp only [Ppu.composing, Ppu.visible, Bool.and_eq_true, decide_eq_true_eq, and_assoc]

theorem dotWork_composing : (u.dotWork cart).composing = u.composing := by
  have hf := dotWork_frame cart u
  rw [Bool.eq_iff_iff, composing_iff, composing_iff, dotFrame_scanline hf, dotFrame_dot hf]

theorem compose_elsewhere {u : Ppu} (h : u.composing = false) : u.compose cart = u := if_neg (Bool.eq_false_iff.1 h)

/-- Composition sets the sprite-zero hit or leaves it (R351). -/
theorem compose_spriteZeroHit :
    (u.compose cart).spriteZeroHit = u.spriteZeroHit ∨ (u.compose cart).spriteZeroHit = true := by
  cases hz : u.zeroHit u.backgroundPixel u.spritePixel with
  | false =>
    left
    unfold Ppu.compose
    split <;> simp [hz]
  | true =>
    unfold Ppu.compose
    split
    · exact .inr (by simp [hz])
    · exact .inl rfl

/-- The nine sprites that set overflow. -/
theorem spriteMatches_spec (h : u.spriteMatches.length = 9) :
    u.spriteMatches.length = 9 ∧ u.spriteMatches.Nodup ∧ ∀ n ∈ u.spriteMatches, n < 64 ∧ u.spriteInRange n = true := by
  refine ⟨h, (List.nodup_range.filter _).sublist (List.take_sublist 9 _), fun n hn => ?_⟩
  obtain ⟨hrange, hin⟩ := List.mem_filter.1 (List.mem_of_mem_take hn)
  exact ⟨List.mem_range.1 hrange, hin⟩

/-- The range test depends on the scanline, OAM and the sprite size only. -/
theorem spriteInRange_dotFrame {u t : Ppu} (h : dotFrame u t) (n : Nat) : t.spriteInRange n = u.spriteInRange n := by
  rw [h]
  rfl

/-- Overflow changes only to set, in the sprite evaluation of a visible scanline, with nine sprites in range (R340). -/
theorem clock_spriteOverflow_change {u : Ppu} (hpre : ¬(u.scanline = -1 ∧ u.dot = 1))
    (hne : (u.clock cart).spriteOverflow ≠ u.spriteOverflow) :
    (0 ≤ u.scanline ∧ u.scanline ≤ 239 ∧ u.dot = 257) ∧ (u.clock cart).spriteOverflow = true ∧
      ∃ l : List Nat, l.length = 9 ∧ l.Nodup ∧ ∀ n ∈ l, n < 64 ∧ u.spriteInRange n = true := by
  have hf := beforeLineF_frame cart u
  have hbefore : (u.beforeLineF cart).spriteOverflow = u.spriteOverflow := by
    rw [(beforeLineF_flags cart u).2.2, lineA_elsewhere hpre]
  rw [clock_spriteOverflow] at hne ⊢
  refine ⟨?_, ?_⟩
  · by_contra hplace
    rw [← dotFrame_scanline hf, ← dotFrame_dot hf] at hplace
    rw [lineF_elsewhere hplace] at hne
    exact hne hbefore
  · rcases lineF_spriteOverflow (u.beforeLineF cart) with hkept | ⟨hset, hlen⟩
    · exact absurd (hkept.trans hbefore) hne
    · refine ⟨hset, (u.beforeLineF cart).spriteMatches, ?_⟩
      simpa only [spriteInRange_dotFrame hf] using spriteMatches_spec _ hlen

/-- The sprite-zero hit changes only to set, on a visible pixel (R351). -/
theorem clock_spriteZeroHit_change {u : Ppu} (hpre : ¬(u.scanline = -1 ∧ u.dot = 1))
    (hne : (u.clock cart).spriteZeroHit ≠ u.spriteZeroHit) :
    u.composing = true ∧ (u.clock cart).spriteZeroHit = true := by
  have hwork : (u.dotWork cart).spriteZeroHit = u.spriteZeroHit := by
    rw [dotWork_spriteZeroHit, lineA_elsewhere hpre]
  rw [clock_spriteZeroHit] at hne ⊢
  refine ⟨Bool.eq_true_of_not_eq_false fun hc => ?_, ?_⟩
  · rw [compose_elsewhere cart (by rw [dotWork_composing, hc])] at hne
    exact hne hwork
  · exact (compose_spriteZeroHit cart _).resolve_left fun hkept => hne (hkept.trans hwork)

/-- All three flags are clear after scanline -1, dot 1 (R314). -/
theorem clock_flags_prerender {u : Ppu} (h : u.scanline = -1 ∧ u.dot = 1) :
    (u.clock cart).verticalBlank = false ∧ (u.clock cart).spriteOverflow = false ∧
      (u.clock cart).spriteZeroHit = false := by
  obtain ⟨hs, hd⟩ := h
  obtain ⟨hvb, hso, hzh⟩ := lineA_flags_at ⟨hs, hd⟩
  have hf := beforeLineF_frame cart u
  refine ⟨?_, ?_, ?_⟩
  · rw [clock_verticalBlank, hvb, hs]
    rfl
  · rw [clock_spriteOverflow, lineF_elsewhere (by rw [dotFrame_scanline hf]; omega), (beforeLineF_flags cart u).2.2, hso]
  · have hc : u.composing = false := Bool.eq_false_iff.2 (mt (composing_iff u).1 (by omega))
    rw [clock_spriteZeroHit, compose_elsewhere cart (by rw [dotWork_composing, hc]), dotWork_spriteZeroHit, hzh]

end

/-- Settles O54, flag by flag. -/
theorem statusFlagEvents : Obligations.StatusFlagEvents := by
  intro cart u
  dsimp only
  refine ⟨clock_flags_prerender cart, fun hs hd => ?_, fun hpre hvb => ?_, fun hpre hne => ?_, fun hpre hne => ?_⟩
  · rw [clock_verticalBlank, hs, hd]
    exact Bool.or_true _
  · rw [clock_verticalBlank, lineA_elsewhere hpre, ← Bool.decide_and, decide_eq_false hvb, Bool.or_false]
  · obtain ⟨⟨hlo, hhi, hdot⟩, hset, l, hlen, hnodup, hl⟩ := clock_spriteOverflow_change cart hpre hne
    refine ⟨hlo, hhi, hdot, hset, l, hlen, hnodup, fun n hn => ⟨(hl n hn).1, ?_⟩⟩
    have hin := (hl n hn).2
    rwa [spriteInRange_eq, decide_eq_true_eq] at hin
  · obtain ⟨hc, hset⟩ := clock_spriteZeroHit_change cart hpre hne
    obtain ⟨hlo, hhi, hdlo, hdhi⟩ := (composing_iff u).1 hc
    exact ⟨hlo, hhi, hdlo, hdhi, hset⟩

/-! ## The frame buffer -/

section

variable (cart : Option Cartridge) {u : Ppu}

/-- The colour that composition plots (R350). -/
def Ppu.pixelColourIndex (u : Ppu) : BitVec 6 :=
  u.colourIndex cart (resolvePriority u.backgroundPixel u.spritePixel)

/-- Reading any pixel after composing at a visible one (R352). -/
theorem compose_pixel (hc : u.composing = true) {row column : Nat} (hcol : column < 256) :
    FrameBuffer.pixel (u.compose cart).fb row column =
      if u.scanline = row ∧ u.dot = column + 1 then Config.palette (u.pixelColourIndex cart)
      else FrameBuffer.pixel u.fb row column := by
  obtain ⟨hlo, hhi, hdlo, hdhi⟩ := (composing_iff u).1 hc
  have hsame : pixelIndex row column = pixelIndex u.scanline.toNat (u.dot - 1) ↔
      u.scanline = row ∧ u.dot = column + 1 := by
    rw [pixelIndex_inj hcol (by omega)]
    omega
  rw [Ppu.compose, if_pos hc]
  exact (FrameBuffer.pixel_plot _ _ _ _ _ _).trans (if_congr hsame rfl rfl)

theorem clock_fb (u : Ppu) : (u.clock cart).fb = ((u.dotWork cart).compose cart).fb := by
  rw [Ppu.clock, advance_frame]

/-- Reading any pixel after a clock at a visible dot. -/
theorem clock_pixel (hc : u.composing = true) {row column : Nat} (hcol : column < 256) :
    FrameBuffer.pixel (u.clock cart).fb row column =
      if u.scanline = row ∧ u.dot = column + 1 then Config.palette ((u.dotWork cart).pixelColourIndex cart)
      else FrameBuffer.pixel u.fb row column := by
  have hf := dotWork_frame cart u
  rw [clock_fb, compose_pixel cart (by rw [dotWork_composing, hc]) hcol, dotFrame_scanline hf, dotFrame_dot hf,
    dotFrame_fb hf]

theorem clock_fb_elsewhere (hc : u.composing = false) : (u.clock cart).fb = u.fb := by
  rw [clock_fb, compose_elsewhere cart (by rw [dotWork_composing, hc]), dotFrame_fb (dotWork_frame cart u)]

/-- With both layers off a pixel shows palette entry 0 (R347 to R350). -/
theorem pixelColourIndex_layersOff (hbg : u.showBg = false) (hsp : u.showSprites = false) :
    u.pixelColourIndex cart = (Memory.read u.pal 0 &&& u.paletteMask).setWidth 6 := by
  have hback : u.backgroundPixel = ⟨0#2, 0#3⟩ := by rw [Ppu.backgroundPixel, hbg]; rfl
  have hfront : u.spritePixel.px = 0#2 := by rw [Ppu.spritePixel, hsp]; rfl
  rw [Ppu.pixelColourIndex, resolvePriority, if_pos hfront, hback, if_pos rfl]
  rfl

end

/-- Settles O57: the pixel of the dot is the one plotted. -/
theorem frameBufferWrites : Obligations.FrameBufferWrites := by
  intro cart u row column hrow hcol
  have hc (h : u.scanline = row ∧ u.dot = column + 1) : u.composing = true := (composing_iff u).2 (by omega)
  refine ⟨fun h => ?_, fun h hbg hsp => ?_, fun h => ?_⟩
  · exact ⟨_, (clock_pixel cart (hc h) hcol).trans (if_pos h)⟩
  · have hf := dotWork_frame cart u
    have hoff := pixelColourIndex_layersOff cart (u := u.dotWork cart)
      (by rw [Ppu.showBg, dotFrame_mask hf, hbg]) (by rw [Ppu.showSprites, dotFrame_mask hf, hsp])
    rw [dotFrame_pal hf, Ppu.paletteMask, Ppu.grayscale, dotFrame_mask hf] at hoff
    rw [clock_pixel cart (hc h) hcol, if_pos h, hoff]
  · cases hcomp : u.composing with
    | true => rw [clock_pixel cart hcomp hcol, if_neg h]
    | false => rw [clock_fb_elsewhere cart hcomp]

end Sys2Proof.Machine
end

section
/-! The System clock (55_system_clock_dma.md R371 to R376, 60_exceptions.md R403, R404): what a step counts, when it delivers
an NMI, when the CPU waits, which instruction it runs, and that it always answers a next state. -/

namespace Sys2Proof.Machine

/-! ## The three parts of a step -/

/-- A step answers the end of the tick after the PPU clock and the CPU or DMA step, for every parameter setting (R371). -/
theorem systemClock_next (p : Params) (s : State) :
    ∃ u, slotStep (ppuClock p s) = .next u ∧ systemClock p s = .next (endTick p u) := by
  obtain ⟨u, hu⟩ := slotStep_next (ppuClock p s)
  exact ⟨u, hu, by rw [systemClock, hu, thenNext]⟩

/-- A step with the default parameters, from what its second part answers. -/
theorem step_of_slotStep {s u : State} (h : slotStep (ppuClock Params.default s) = .next u) :
    step s = .next (countTick (deliverNmi u)) := by
  rw [step, systemClock, h, thenNext, endTick_default]

theorem slotStep_notSlot {s : State} (h : s.master % 3 ≠ 0) : slotStep s = .next s := if_neg h

theorem slotStep_dma {s : State} (h : s.master % 3 = 0) (hd : s.dma.state ≠ .idle) : slotStep s = .next (dmaStep s) := by
  rw [slotStep, if_pos h, if_pos hd]

theorem slotStep_cpu {s : State} (h : s.master % 3 = 0) (hd : s.dma.state = .idle) : slotStep s = cpuClock s := by
  rw [slotStep, if_pos h, if_neg (not_not.2 hd)]

theorem cpuClock_run {s : State} (h : s.cpu.debt = 0) : cpuClock s = executeInstruction (countCycle s) := if_pos h

theorem cpuClock_wait {s : State} (h : s.cpu.debt ≠ 0) :
    cpuClock s = .next { s with cpu := { s.cpu with debt := s.cpu.debt - 1, cycles := s.cpu.cycles + 1 } } := if_neg h

/-! ## The NMI signal -/

/-- With no delay an NMI becomes pending exactly at the start of vertical blank with NMI enabled (R316, R403). -/
theorem ppuClock_nmiPending {s : State} (h : s.nmiPending = false) :
    (ppuClock Params.default s).nmiPending =
      decide (s.ppu.scanline = 241 ∧ s.ppu.dot = 1 ∧ s.ppu.ctrl.getLsbD 7 = true) := by
  have hcond : (s.ppu.atVerticalBlank && s.ppu.enableNmi) = true ↔
      s.ppu.scanline = 241 ∧ s.ppu.dot = 1 ∧ s.ppu.ctrl.getLsbD 7 = true := by
    simp only [Ppu.atVerticalBlank, Ppu.enableNmi, Bool.and_eq_true, decide_eq_true_eq, and_assoc]
  unfold ppuClock
  split
  next ha => exact (decide_eq_true (hcond.1 ha)).symm
  next ha => exact h.trans (decide_eq_false (mt hcond.2 ha)).symm

/-- Away from the start of vertical blank a PPU clock changes the PPU only. -/
theorem ppuClock_elsewhere (p : Params) {s : State} (h : ¬(s.ppu.scanline = 241 ∧ s.ppu.dot = 1)) :
    ppuClock p s = { s with ppu := s.ppu.clock s.cart } := by
  have hvb : s.ppu.atVerticalBlank = false := by
    rw [Ppu.atVerticalBlank, ← Bool.decide_and, decide_eq_false h]
  rw [ppuClock, hvb]
  rfl

theorem deliverNmi_pending {s : State} (h : s.nmiPending = true) : deliverNmi s = cpuNmi { s with nmiPending := false } :=
  if_pos h

theorem deliverNmi_none {s : State} (h : s.nmiPending = false) : deliverNmi s = s := if_neg (Bool.eq_false_iff.1 h)

/-- Settles O42: the CPU or DMA step keeps the signal, so the tick delivers what its PPU clock has armed. -/
theorem nmiDelivery : Obligations.NmiDelivery := by
  intro s hs
  obtain ⟨u, hu⟩ := slotStep_next (ppuClock Params.default s)
  have hframe := slotStep_busFrame hu
  have hpending := hframe.nmiPending.trans (ppuClock_nmiPending hs)
  have hmaster := hframe.master.trans (ppuClock_master Params.default s)
  refine ⟨u, hu, ?_⟩
  rw [step_of_slotStep hu]
  by_cases hat : s.ppu.scanline = 241 ∧ s.ppu.dot = 1 ∧ s.ppu.ctrl.getLsbD 7 = true
  · have hnmi : (cpuNmi { u with nmiPending := false }).master = s.master :=
      (Accesses.cpuNmi .refl).busFrame.master.trans hmaster
    rw [if_pos hat, deliverNmi_pending (hpending.trans (decide_eq_true hat)), countTick, hnmi]
  · rw [if_neg hat, deliverNmi_none (hpending.trans (decide_eq_false hat)), countTick, hmaster]

/-! ## What every step counts -/

/-- Bus accesses do not move the timing grid. -/
theorem BusFrame.counters {s t : State} (h : BusFrame s t) :
    t.ppu.dot = s.ppu.dot ∧ t.ppu.scanline = s.ppu.scanline ∧ t.ppu.frameComplete = s.ppu.frameComplete := by
  rw [h.ppu]
  exact ⟨rfl, rfl, rfl⟩

theorem deliverNmi_counters (s : State) :
    (deliverNmi s).ppu.dot = s.ppu.dot ∧ (deliverNmi s).ppu.scanline = s.ppu.scanline ∧
      (deliverNmi s).ppu.frameComplete = s.ppu.frameComplete := by
  unfold deliverNmi
  split
  · exact (Accesses.cpuNmi (.refl (s := { s with nmiPending := false }))).busFrame.counters
  · exact ⟨rfl, rfl, rfl⟩

/-- After a step the PPU's counters are those after its clock, and the master counter is one more. -/
theorem step_counters {s t : State} (h : step s = .next t) :
    t.master = s.master + 1 ∧ t.ppu.dot = (s.ppu.clock s.cart).dot ∧ t.ppu.scanline = (s.ppu.clock s.cart).scanline ∧
      t.ppu.frameComplete = (s.ppu.clock s.cart).frameComplete := by
  obtain ⟨u, hu, rfl⟩ := step_eq h
  have hframe := slotStep_busFrame hu
  obtain ⟨hdot, hscan, hcomplete⟩ := hframe.counters
  obtain ⟨hdot', hscan', hcomplete'⟩ := deliverNmi_counters u
  rw [ppuClock_frame] at hdot hscan hcomplete
  refine ⟨?_, hdot'.trans hdot, hscan'.trans hscan, hcomplete'.trans hcomplete⟩
  rw [countTick_master, deliverNmi_master, hframe.master, ppuClock_master]

/-- Settles O48: neither the CPU nor the DMA controller nor an NMI moves the counters. -/
theorem tickAdvances : Obligations.TickAdvances := by
  intro s t h
  obtain ⟨hmaster, hdot, hscan, hcomplete⟩ := step_counters h
  obtain ⟨hinside, hend, hcomplete'⟩ := clock_timing s.cart s.ppu
  rw [hdot, hscan, hcomplete, hcomplete']
  refine ⟨hmaster, fun hne => ?_, fun he => ?_⟩
  · obtain ⟨hd, hs⟩ := hinside hne
    exact ⟨hd, hs, by simp [hne]⟩
  · obtain ⟨hd, hs⟩ := hend he
    exact ⟨hd, hs, by simp [he]⟩

/-! ## When the CPU waits -/

/-- A step that arms and delivers no NMI is its second part, counted. -/
theorem step_noNmi {s : State} (hp : s.nmiPending = false) (hv : ¬(s.ppu.scanline = 241 ∧ s.ppu.dot = 1)) :
    ∃ u, slotStep { s with ppu := s.ppu.clock s.cart } = .next u ∧ step s = .next (countTick u) := by
  obtain ⟨u, hu⟩ := slotStep_next (ppuClock Params.default s)
  have hstep := step_of_slotStep hu
  rw [ppuClock_elsewhere _ hv] at hu
  rw [deliverNmi_none ((slotStep_busFrame hu).nmiPending.trans hp)] at hstep
  exact ⟨u, hu, hstep⟩

/-- Settles O49, by the three ways in which a tick runs no instruction. -/
theorem cpuWaits : Obligations.CpuWaits := by
  intro s hp hv
  obtain ⟨u, hu, hstep⟩ := step_noNmi hp hv
  have hnot (h : s.master % 3 ≠ 0) : u = { s with ppu := s.ppu.clock s.cart } := by
    cases hu.symm.trans (slotStep_notSlot h)
    rfl
  refine ⟨_, hstep, fun h => ?_, fun hd => ?_, fun h hd hdebt => ?_⟩
  · rw [hnot h]
    exact ⟨rfl, rfl, rfl⟩
  · by_cases h : s.master % 3 = 0
    · cases hu.symm.trans (slotStep_dma h hd)
      exact ⟨dmaStep_cpu _, dmaStep_ram _⟩
    · rw [hnot h]
      exact ⟨rfl, rfl⟩
  · cases (hu.symm.trans (slotStep_cpu h hd)).trans (cpuClock_wait hdebt)
    exact ⟨rfl, rfl, rfl⟩

/-! ## Which instruction runs -/

/-- In a CPU slot with no transfer armed and no cycles owed a step runs the instruction fetched (R371, R375). -/
theorem step_executes {s : State} (h : s.master % 3 = 0) (hd : s.dma.state = .idle) (hdebt : s.cpu.debt = 0) :
    step s = thenNext (executeInstruction (countCycle (ppuClock Params.default s))) (endTick Params.default) := by
  have hclock := ppuClock_frame Params.default s
  rw [step, systemClock, slotStep_cpu (by rw [ppuClock_master, h]) (by rw [hclock]; exact hd),
    cpuClock_run (by rw [hclock]; exact hdebt)]

/-- Fetching bytes from RAM or PRG reads them in order and advances PC past them (R123). -/
theorem fetchBytes_code (n : Nat) {s : State} (h : ∀ k, k < n → codeAddr (s.cpu.pc + BitVec.ofNat 16 k) s) :
    fetchBytes n s =
      ((List.range n).map fun k => busByte (s.cpu.pc + BitVec.ofNat 16 k) s, s.setPc (s.cpu.pc + BitVec.ofNat 16 n)) := by
  induction n generalizing s with
  | zero => simp [fetchBytes, State.setPc]
  | succ n ih =>
    have hpc (k : Nat) : s.cpu.pc + 1#16 + BitVec.ofNat 16 k = s.cpu.pc + BitVec.ofNat 16 (k + 1) := by
      rw [BitVec.add_assoc, BitVec.add_comm 1#16, BitVec.ofNat_add]
    have hfirst : codeAddr s.cpu.pc s := by simpa using h 0 (Nat.zero_lt_succ n)
    have hrest := ih (s := s.setPc (s.cpu.pc + 1#16)) fun k hk => by
      rw [State.setPc_pc, hpc]
      exact h (k + 1) (Nat.succ_lt_succ hk)
    simp only [State.setPc_pc, hpc, busByte_setPc] at hrest
    rw [fetchBytes, fetchByte_code hfirst, hrest, List.range_succ_eq_map, List.map_cons, List.map_map, BitVec.add_zero]
    rfl

/-- Settles O46: the step's own fetch reads the bytes that decode. -/
theorem stepRunsDecodedInstruction : Obligations.StepRunsDecodedInstruction := by
  refine ⟨fun s i n h hd hdebt => ?_, fun s n _ h => fetchBytes_code n h⟩
  dsimp only
  intro hdecode
  rw [step_executes h hd hdebt, executeInstruction, fetchInstr_eq hdecode]

/-! ## Every run completes -/

theorem hostAct_next (p : Params) (a : HostAction) (s : State) : ∃ t, hostAct p a s = .next t := by
  cases a with
  | clock =>
    obtain ⟨u, -, h⟩ := systemClock_next p s
    exact ⟨_, h⟩
  | reset | insertCartridge | setButtons | ackFrame | irq => exact ⟨_, rfl⟩

/-- Settles O47, by induction on the host's actions. -/
theorem stepAlwaysAnswersNext : Obligations.StepAlwaysAnswersNext := by
  refine ⟨fun s => hostAct_next Params.default .clock s, fun p as s => ?_⟩
  induction as generalizing s with
  | nil => exact ⟨s, rfl⟩
  | cons a as ih =>
    obtain ⟨t, ht⟩ := hostAct_next p a s
    rw [hostRun, ht]
    exact ih t

end Sys2Proof.Machine
end

section
/-! The OAM-DMA transfer (55_system_clock_dma.md R382 to R387): a read and a write copy one byte, and 256 such pairs copy the
page in order. -/

namespace Sys2Proof.Machine

/-! ## Steps of the controller -/

theorem dmaTimes_add (m n : Nat) (s : State) : dmaTimes (m + n) s = dmaTimes n (dmaTimes m s) := by
  induction m generalizing s with
  | zero => rw [Nat.zero_add, dmaTimes]
  | succ m ih => rw [Nat.succ_add, dmaTimes, ih, dmaTimes]

/-- The controller is about to read: it is in Read, or armed with the slot even (R382). -/
def State.dmaReadNext (s : State) : Prop := s.dma.state = .read ∨ (s.dma.state = .sync ∧ s.master / 3 % 2 = 0)

theorem oddSlot_eq_true_iff (s : State) : s.oddSlot = true ↔ s.master / 3 % 2 = 1 := by
  rw [State.oddSlot, decide_eq_true_eq]

/-- An armed transfer idles once if the slot is odd (R382). -/
theorem dmaStep_align {s : State} (h : s.dma.state = .sync) (ho : s.master / 3 % 2 = 1) :
    dmaStep s = { s with dma := { s.dma with state := .read } } := by
  simp only [dmaStep, h, (oddSlot_eq_true_iff s).2 ho, if_true]

theorem dmaStep_read {s : State} (h : s.dmaReadNext) : dmaStep s = dmaRead s := by
  rcases h with h | ⟨h, he⟩
  · simp only [dmaStep, h]
  · have hodd : ¬s.oddSlot = true := mt (oddSlot_eq_true_iff s).1 (by omega)
    simp only [dmaStep, h, if_neg hodd]

theorem dmaStep_write {s : State} (h : s.dma.state = .write) : dmaStep s = dmaWrite s := by
  simp only [dmaStep, h]

theorem State.dmaReadNext.ne_idle {s : State} (h : s.dmaReadNext) : s.dma.state ≠ .idle := by
  rcases h with h | ⟨h, -⟩ <;> simp [h]

/-- The byte a transfer reads next. -/
def State.dmaByte (s : State) : Byte := busByte (addrOf s.dma.cursor s.dma.page) s

/-- Reading RAM or PRG, the controller changes only its own state (R382). -/
theorem dmaRead_code {s : State} (h : codeAddr (addrOf s.dma.cursor s.dma.page) s) :
    dmaRead s = { s with dma := { s.dma with data := s.dmaByte, state := .write } } := by
  rw [dmaRead, memRead_code h]
  rfl

/-- A read and a write copy one byte to OAM, and end the transfer when the cursor wraps (R382, R383). -/
theorem dmaTimes_two {s : State} (h : s.dmaReadNext) (hcode : codeAddr (addrOf s.dma.cursor s.dma.page) s) :
    dmaTimes 2 s =
      { s with
        ppu := { s.ppu with oam := Memory.write s.ppu.oam s.dma.cursor.toNat s.dmaByte }
        dma :=
          { s.dma with
            data := s.dmaByte
            cursor := s.dma.cursor + 1#8
            state := if s.dma.cursor + 1#8 = 0#8 then .idle else .read } } := by
  rw [dmaTimes, dmaTimes, dmaTimes, dmaStep_read h, dmaRead_code hcode, dmaStep_write rfl]
  rfl

/-! ## A page of memory -/

/-- A page that begins in RAM or PRG lies in RAM or PRG. -/
theorem codeAddr_page {page : Byte} {s : State} (h : codeAddr (addrOf 0x00#8 page) s) (k : Byte) :
    codeAddr (addrOf k page) s := by
  have hk := k.isLt
  have hzero := addrOf_toNat 0x00#8 page
  have hbyte := addrOf_toNat k page
  rcases h with h | ⟨hc, h⟩
  · left
    omega
  · exact .inr ⟨hc, by omega⟩

/-- No device answers in RAM or PRG. -/
theorem deviceAddr_of_code {a : Addr} {s : State} (h : codeAddr a s) : deviceAddr a = false := by
  have h' : a.toNat ≤ 0x1FFF ∨ 0x8000 ≤ a.toNat := h.imp_right And.right
  simp only [deviceAddr, Bool.or_eq_false_iff, Bool.and_eq_false_iff, decide_eq_false_iff_not, beq_eq_false_iff_ne]
  refine ⟨⟨by omega, ?_⟩, ?_⟩ <;> rintro rfl <;> simp at h'

/-! ## The whole transfer -/

/-- A transfer from `s` has copied its first `k` bytes: outside OAM and the controller nothing has changed. -/
structure Copied (s : State) (k : Nat) (t : State) : Prop where
  cursor : t.dma.cursor = BitVec.ofNat 8 k
  page : t.dma.page = s.dma.page
  frame : t = { s with ppu := { s.ppu with oam := t.ppu.oam }, dma := t.dma }
  bytes : ∀ j : Byte, j.toNat < k → Memory.read t.ppu.oam j.toNat = busByte (addrOf j s.dma.page) s

namespace Copied

variable {s t : State} {k : Nat}

theorem zero (h : s.dma.cursor = 0x00#8) : Copied s 0 s := ⟨h, rfl, rfl, fun _ hj => absurd hj (Nat.not_lt_zero _)⟩

theorem ram (h : Copied s k t) : t.ram = s.ram := by rw [h.frame]

theorem cart (h : Copied s k t) : t.cart = s.cart := by rw [h.frame]

theorem cpu (h : Copied s k t) : t.cpu = s.cpu := by rw [h.frame]

theorem ppu (h : Copied s k t) : t.ppu = { s.ppu with oam := t.ppu.oam } := by rw [h.frame]

/-- Every byte of the page is found where the transfer reads next. -/
theorem codeAddr_next (h : Copied s k t) (hcode : codeAddr (addrOf 0x00#8 s.dma.page) s) :
    codeAddr (addrOf t.dma.cursor t.dma.page) t := by
  have hk := codeAddr_page hcode t.dma.cursor
  rwa [h.page, codeAddr, h.cart]

/-- What has been copied does not change what is left to copy. -/
theorem dmaByte_eq (h : Copied s k t) (hcode : codeAddr (addrOf 0x00#8 s.dma.page) s) :
    t.dmaByte = busByte (addrOf t.dma.cursor s.dma.page) s := by
  rw [State.dmaByte, h.page]
  exact busByte_congr (deviceAddr_of_code (codeAddr_page hcode _)) h.ram h.cart

/-- Two more steps copy one more byte; the 256th is the last. -/
theorem step (h : Copied s k t) (hcode : codeAddr (addrOf 0x00#8 s.dma.page) s) (hr : t.dmaReadNext) (hk : k < 256) :
    Copied s (k + 1) (dmaTimes 2 t) ∧ (dmaTimes 2 t).dma.state = if k = 255 then .idle else .read := by
  have hcursor : t.dma.cursor.toNat = k := by
    rw [h.cursor, BitVec.toNat_ofNat, Nat.mod_eq_of_lt hk]
  have hnext : t.dma.cursor + 1#8 = BitVec.ofNat 8 (k + 1) := by
    rw [h.cursor, BitVec.ofNat_add]
  have hwrap : t.dma.cursor + 1#8 = 0#8 ↔ k = 255 := by bv_omega
  rw [dmaTimes_two hr (h.codeAddr_next hcode), h.dmaByte_eq hcode]
  refine ⟨⟨hnext, h.page, ?_, fun j hj => ?_⟩, if_congr hwrap rfl rfl⟩
  · rw [h.frame]
  · dsimp only
    by_cases hlast : j = t.dma.cursor
    · rw [hlast, Memory.read_write_same]
    · have hne : j.toNat ≠ t.dma.cursor.toNat := mt BitVec.eq_of_toNat_eq hlast
      rw [Memory.read_write_other _ _ hne]
      exact h.bytes j (by omega)

/-- After twice as many steps, fewer than 256 bytes are copied and the controller is about to read the next one. -/
theorem even (hcode : codeAddr (addrOf 0x00#8 s.dma.page) s) (hr : s.dmaReadNext) (h0 : s.dma.cursor = 0x00#8)
    (hk : k < 256) : Copied s k (dmaTimes (2 * k) s) ∧ (dmaTimes (2 * k) s).dmaReadNext := by
  induction k with
  | zero => exact ⟨zero h0, hr⟩
  | succ k ih =>
    obtain ⟨hcopied, hnext⟩ := ih (by omega)
    obtain ⟨hcopied', hstate⟩ := hcopied.step hcode hnext (by omega)
    rw [Nat.mul_succ, dmaTimes_add]
    exact ⟨hcopied', .inl (hstate.trans (if_neg (by omega)))⟩

end Copied

/-- Until its last write a transfer is under way (R384). -/
theorem dmaTimes_ne_idle {s : State} (hcode : codeAddr (addrOf 0x00#8 s.dma.page) s) (hr : s.dmaReadNext)
    (h0 : s.dma.cursor = 0x00#8) {n : Nat} (hn : n < 512) : (dmaTimes n s).dma.state ≠ .idle := by
  obtain ⟨-, hnext⟩ := Copied.even hcode hr h0 (k := n / 2) (by omega)
  rcases Nat.mod_two_eq_zero_or_one n with he | ho
  · have hn' : n = 2 * (n / 2) := by omega
    rw [hn']
    exact hnext.ne_idle
  · have hn' : n = 2 * (n / 2) + 1 := by omega
    rw [hn', dmaTimes_add, dmaTimes, dmaTimes, dmaStep_read hnext]
    exact DmaState.noConfusion

/-- Settles O50: 255 bytes are copied by 510 steps, and the last two end the transfer. -/
theorem dmaTransfer : Obligations.DmaTransfer := by
  refine ⟨fun s h ho => dmaStep_align h ho, fun s hr h0 hcode => ?_⟩
  obtain ⟨hcopied, hnext⟩ := Copied.even hcode hr h0 (k := 255) (by decide)
  obtain ⟨hall, hstate⟩ := hcopied.step hcode hnext (by decide)
  have hlast : dmaTimes 512 s = dmaTimes 2 (dmaTimes (2 * 255) s) := dmaTimes_add 510 2 s
  dsimp only
  rw [hlast]
  exact ⟨hstate, hall.cursor, fun k => hall.bytes k k.isLt, fun n hn => dmaTimes_ne_idle hcode hr h0 hn, hall.cpu,
    hall.ram, hall.ppu⟩

end Sys2Proof.Machine
end
